-- ==== Sys2Proof/Word.lean ====
section
/-! DEFINITION. The word types of BCODEC: 32-bit registers (R20), 8-bit channels and record bytes (R10, R90),
and the triple of channels on which every datapath function works per channel (R110). -/

namespace Sys2Proof

/-- A register of the window: 32 bits, bit 0 the least significant (R8, R20). -/
abbrev Word := BitVec 32

/-- A channel value (`u8`) or one byte of a record (R10, R90). -/
abbrev Byte := BitVec 8

/-- Three channels of `n` bits each: a pixel for `n = 8`, a quantized color for `n = 5` and `n = 4`, the delta
fields for `n = 3`.  No value crosses from one channel to another (R110). -/
structure Rgb (n : Nat) where
  r : BitVec n
  g : BitVec n
  b : BitVec n
  deriving DecidableEq, Repr

/-- A pixel or an 8-bit base color: a triple (r, g, b) of `u8` (R10). -/
abbrev Pixel := Rgb 8

/-- The 16 pixels of a block, indexed by i = x + 4y (R11). -/
abbrev Block := Vector Pixel 16

/-- "Per channel": the same function on r, g and b independently (R110). -/
def Rgb.map {m n : Nat} (f : BitVec m → BitVec n) (p : Rgb m) : Rgb n :=
  { r := f p.r, g := f p.g, b := f p.b }

/-- "Per channel" for a function of two operands (R110, R114). -/
def Rgb.map2 {k m n : Nat} (f : BitVec k → BitVec m → BitVec n) (p : Rgb k) (q : Rgb m) : Rgb n :=
  { r := f p.r q.r, g := f p.g q.g, b := f p.b q.b }

end Sys2Proof
end

