-- ==== Sys2Proof/Config.lean ====
section
/-! DEFINITION. What an implementation or a platform fixes (R6), and the free values of R39.  Every constant here is
opaque: nothing can evaluate it, so whatever is proved holds for every choice. -/

namespace Sys2Proof.Config

/-- `BASE` divided by 0x100 (R66: BASE is a platform parameter, required to be a multiple of 0x100).  Log entry 5. -/
opaque basePage : Nat

/-- `BASE`, the bus address of the window's offset 0x000 (R6, R66). -/
def base : Nat := 0x100 * basePage

/-- `LAT_DEC` less one (R6, R240: an integer at least 1).  No rule depends on it.  Log entry 6. -/
opaque latDecLessOne : Nat

/-- `LAT_ENC` less one (R6, R240).  Log entry 6. -/
opaque latEncLessOne : Nat

/-- `LAT_EVAL` less one (R6, R240).  Log entry 6. -/
opaque latEvalLessOne : Nat

/-- `LAT_DEC`, in clock cycles, at least 1 (R6, R240). -/
def latDec : Nat := latDecLessOne + 1

/-- `LAT_ENC`, in clock cycles, at least 1 (R6, R240). -/
def latEnc : Nat := latEncLessOne + 1

/-- `LAT_EVAL`, in clock cycles, at least 1 (R6, R240). -/
def latEval : Nat := latEvalLessOne + 1

/-- The free value of the n-th unspecified read: what a HOST read of BLK_HI, BLK_LO, SCORE or PIX_OUT[i] returns
while BUSY = 1 (R39, U9: drawn freely, independently per read).  Log entry 3. -/
opaque unspecifiedRead : Nat → Word

end Sys2Proof.Config
end

