-- ==== Sys2Proof/Syntax.lean ====
section
/-! DEFINITION. What BCODEC can be told: the eleven commands of the opcode table, the fields of a command word, the
registers of the window, the HOST's bus accesses, and the actions of the machine. -/

namespace Sys2Proof

/-- The commands: one constructor per row of spec/opcode_table.json (R88).  Every bit of a command word is fixed, so
no constructor has an operand: a command's operands are the registers PIX_IN, BLK_HI and BLK_LO (R80). -/
inductive Instr where
  /-- DEC (R181) -/
  | dec
  /-- EVAL (R184) -/
  | eval
  /-- ENC.AUTO.BEST (R160) -/
  | encAutoBest
  /-- ENC.LR.BEST (R161) -/
  | encLrBest
  /-- ENC.TB.BEST (R162) -/
  | encTbBest
  /-- ENC.AUTO.IND (R163) -/
  | encAutoInd
  /-- ENC.LR.IND (R164) -/
  | encLrInd
  /-- ENC.TB.IND (R165) -/
  | encTbInd
  /-- ENC.AUTO.DPREF (R166) -/
  | encAutoDpref
  /-- ENC.LR.DPREF (R167) -/
  | encLrDpref
  /-- ENC.TB.DPREF (R168) -/
  | encTbDpref
  deriving DecidableEq, Repr

/-- The legal values of the field FSEL of an ENC command (R82). -/
inductive FSel where
  | auto
  | lr
  | tb
  deriving DecidableEq, Repr

/-- The legal values of the field CSEL of an ENC command (R83). -/
inductive CSel where
  | best
  | ind
  | dpref
  deriving DecidableEq, Repr

/-- The ENC variant with the given fields (R140). -/
def Instr.enc : FSel → CSel → Instr
  | .auto, .best => .encAutoBest
  | .lr, .best => .encLrBest
  | .tb, .best => .encTbBest
  | .auto, .ind => .encAutoInd
  | .lr, .ind => .encLrInd
  | .tb, .ind => .encTbInd
  | .auto, .dpref => .encAutoDpref
  | .lr, .dpref => .encLrDpref
  | .tb, .dpref => .encTbDpref

/-- The fields of a command word as bits: OP = CMD[3:0], FSEL = CMD[5:4], CSEL = CMD[7:6] and the reserved bits
CMD[31:8] (R21, R80). -/
structure CmdFields where
  op : BitVec 4
  fsel : BitVec 2
  csel : BitVec 2
  reserved : BitVec 24
  deriving DecidableEq, Repr

/-- The causes of an error (R201).  BCODEC has no other. -/
inductive ErrorCause where
  /-- BAD_OP, code 0x1: CMD written while idle with a reserved OP -/
  | badOp
  /-- BAD_FIELD, code 0x2: CMD written while idle with a legal OP and an illegal field -/
  | badField
  /-- BUSY_CMD, code 0x3: CMD written while a command is pending -/
  | busyCmd
  /-- BUSY_WRITE, code 0x4: BLK_HI, BLK_LO or PIX_IN written while a command is pending -/
  | busyWrite
  deriving DecidableEq, Repr

/-- What decoding a command word gives: one of the eleven commands, or the error it is rejected with (R84 to R88). -/
inductive Decoded where
  | command (i : Instr)
  | rejected (e : ErrorCause)
  deriving DecidableEq, Repr

/-- The registers of the window (R20), and the reserved offsets (R36). -/
inductive Reg where
  | cmd
  | status
  | ctrl
  | ident
  | blkHi
  | blkLo
  | score
  | pixIn (i : Fin 16)
  | pixOut (i : Fin 16)
  | reserved
  deriving DecidableEq, Repr

/-- One HOST bus access to the window: a read or a write, at a byte offset from BASE, of a width in bits (R60, R61).
An access that is not 32 bits wide moves no data into BCODEC, so a write carries one 32-bit value. -/
inductive Access where
  | read (offset : BitVec 8) (width : Nat)
  | write (offset : BitVec 8) (width : Nat) (value : Word)
  deriving DecidableEq, Repr

/-- The byte offset an access names. -/
def Access.offset : Access → BitVec 8
  | .read o _ => o
  | .write o _ _ => o

/-- The width of an access in bits. -/
def Access.width : Access → Nat
  | .read _ w => w
  | .write _ w _ => w

/-- The actions of the machine, which take place one at a time in one total order (R7, R68, R230): a HOST access, a
turn of the ENGINE, the HOST's WAIT, or reset. -/
inductive Action where
  | host (a : Access)
  /-- the HOST is in WAIT (R99): it reads STATUS, and again until the value read ends the WAIT; `polls` says where the
  ENGINE's turn falls among the reads, after that many more reads that do not end it (log entry 14) -/
  | wait (polls : Nat)
  | engine
  | reset
  deriving DecidableEq, Repr

/-- The two halves of a block (R121): sub-block 1 (left or top) and sub-block 2 (right or bottom). -/
inductive SubBlock where
  | one
  | two
  deriving DecidableEq, Repr

/-- The two color modes of a record, DIFF = 1 and DIFF = 0 (R91, R147). -/
inductive Mode where
  | differential
  | individual
  deriving DecidableEq, Repr

end Sys2Proof
end

