-- ==== Sys2Proof/Decode.lean ====
section
/-! DEFINITION. The command word: its fields (R80), decoding in the order the spec gives the checks (R84 to R87),
and encoding (R88, R140). -/

namespace Sys2Proof

/-- FSEL as bits (R82): 0 AUTO, 1 LR, 2 TB. -/
def FSel.bits : FSel → BitVec 2
  | .auto => 0#2
  | .lr => 1#2
  | .tb => 2#2

/-- CSEL as bits (R83): 0 BEST, 1 IND, 2 DPREF. -/
def CSel.bits : CSel → BitVec 2
  | .best => 0#2
  | .ind => 1#2
  | .dpref => 2#2

/-- Reading FSEL (R82): the value 3 is reserved. -/
def FSel.ofBits (b : BitVec 2) : Option FSel :=
  if b = 0#2 then some .auto else if b = 1#2 then some .lr else if b = 2#2 then some .tb else none

/-- Reading CSEL (R83): the value 3 is reserved. -/
def CSel.ofBits (b : BitVec 2) : Option CSel :=
  if b = 0#2 then some .best else if b = 1#2 then some .ind else if b = 2#2 then some .dpref else none

/-- Cutting a command word into its fields (R80). -/
def CmdFields.ofWord (v : Word) : CmdFields :=
  { op := v.extractLsb' 0 4, fsel := v.extractLsb' 4 2, csel := v.extractLsb' 6 2, reserved := v.extractLsb' 8 24 }

/-- The command word with the given fields (R80). -/
def CmdFields.word (f : CmdFields) : Word :=
  f.reserved ++ f.csel ++ f.fsel ++ f.op

/-- The decoder on fields: OP first, then the reserved bits and the fields of DEC and EVAL, then the fields of ENC;
the first check that fails names the error (R84, R85, R86, R204). -/
def decodeFields (f : CmdFields) : Decoded :=
  if f.op ≠ 1#4 ∧ f.op ≠ 2#4 ∧ f.op ≠ 3#4 then .rejected .badOp
  else if f.reserved ≠ 0#24 ∨ (f.op ≠ 2#4 ∧ (f.fsel ≠ 0#2 ∨ f.csel ≠ 0#2)) then .rejected .badField
  else if f.op = 1#4 then .command .dec
  else if f.op = 3#4 then .command .eval
  else
    match FSel.ofBits f.fsel, CSel.ofBits f.csel with
    | some fs, some cs => .command (Instr.enc fs cs)
    | _, _ => .rejected .badField

/-- Decoding a command word, total on all 2^32 values (R84 to R88). -/
def decode (v : Word) : Decoded :=
  decodeFields (CmdFields.ofWord v)

/-- The fields of a command's word (R80 to R83); (OP, FSEL, CSEL) is the triple that PEND holds while the command is
pending (R34). -/
def Instr.fields : Instr → CmdFields
  | .dec => { op := 1#4, fsel := 0#2, csel := 0#2, reserved := 0#24 }
  | .eval => { op := 3#4, fsel := 0#2, csel := 0#2, reserved := 0#24 }
  | .encAutoBest => { op := 2#4, fsel := FSel.bits .auto, csel := CSel.bits .best, reserved := 0#24 }
  | .encLrBest => { op := 2#4, fsel := FSel.bits .lr, csel := CSel.bits .best, reserved := 0#24 }
  | .encTbBest => { op := 2#4, fsel := FSel.bits .tb, csel := CSel.bits .best, reserved := 0#24 }
  | .encAutoInd => { op := 2#4, fsel := FSel.bits .auto, csel := CSel.bits .ind, reserved := 0#24 }
  | .encLrInd => { op := 2#4, fsel := FSel.bits .lr, csel := CSel.bits .ind, reserved := 0#24 }
  | .encTbInd => { op := 2#4, fsel := FSel.bits .tb, csel := CSel.bits .ind, reserved := 0#24 }
  | .encAutoDpref => { op := 2#4, fsel := FSel.bits .auto, csel := CSel.bits .dpref, reserved := 0#24 }
  | .encLrDpref => { op := 2#4, fsel := FSel.bits .lr, csel := CSel.bits .dpref, reserved := 0#24 }
  | .encTbDpref => { op := 2#4, fsel := FSel.bits .tb, csel := CSel.bits .dpref, reserved := 0#24 }

/-- The command word of a command (R88, R140). -/
def encode (i : Instr) : Word :=
  i.fields.word

/-- The triple (OP, FSEL, CSEL) of a command, as PEND holds it (R34). -/
def Instr.triple (i : Instr) : BitVec 4 × BitVec 2 × BitVec 2 :=
  (i.fields.op, i.fields.fsel, i.fields.csel)

/-- The 32-bit command word of an instruction of the opcode table given as `nbits` bits `w`; bits above `nbits` are 0.
A command is one 32-bit word, so a number that does not fit has no command word. -/
def tableWord (nbits w : Nat) : Option Word :=
  if w % 2 ^ nbits < 2 ^ 32 then some (BitVec.ofNat 32 (w % 2 ^ nbits)) else none

/-- What the decoder reads from an instruction numbered as spec/opcode_table.json numbers its bits. -/
def decodeTableWord (nbits w : Nat) : Option Instr :=
  match tableWord nbits w with
  | none => none
  | some v =>
    match decode v with
    | .command i => some i
    | .rejected _ => none

end Sys2Proof
end

