-- ==== Sys2Proof/WellFormed.lean ====
section
/-! DEFINITION. The checks on what BCODEC is told: a command's fields (R81 to R86), a command, and a HOST access
(R60, R61).  Each is a Bool, so that an ill-formed term can be shown refused. -/

namespace Sys2Proof

/-- The fields of a legal command word: a legal OP, reserved bits 0, FSEL and CSEL 0 for DEC and EVAL and not 3 for
ENC (R81 to R86). -/
def CmdFields.wellFormed (f : CmdFields) : Bool :=
  (f.op == 1#4 || f.op == 2#4 || f.op == 3#4) && f.reserved == 0#24 &&
    (if f.op == 2#4 then f.fsel != 3#2 && f.csel != 3#2 else f.fsel == 0#2 && f.csel == 0#2)

/-- A command is well-formed when its fields are; all eleven are (R88). -/
def Instr.wellFormed (i : Instr) : Bool :=
  i.fields.wellFormed

/-- A HOST access is legal only when it is 32 bits wide and its offset is a multiple of 4 (R60, R61). -/
def Access.wellFormed (a : Access) : Bool :=
  a.width == 32 && a.offset.toNat % 4 == 0

end Sys2Proof
end

