-- ==== Sys2Proof/Machine/State.lean ====
section
/-! DEFINITION. The state of BCODEC (10_state.md), what a step can stop with, and the state after reset (R230).
The last three fields of `State` are the model's own, not the spec's. -/

namespace Sys2Proof.Machine

/-- The bits of STATUS (R22 to R25).  STATUS[3] and STATUS[31:8] are hard-wired to 0 (R26) and are not stored. -/
structure Status where
  /-- STATUS[0], 1 exactly while a command is pending (R22) -/
  busy : Bool
  /-- STATUS[1], set by completion (R23) -/
  done : Bool
  /-- STATUS[2], set by the first error (R24) -/
  err : Bool
  /-- STATUS[7:4], the code of the first error (R25) -/
  errcode : BitVec 4
  deriving DecidableEq, Repr

/-- What BCODEC drives on the bus in answer to a HOST access (R60, R61). -/
inductive Response where
  /-- a legal read, with the data returned (R60) -/
  | readData (value : Word)
  /-- a legal write, performed or ignored or dropped as the register's rule says (R60) -/
  | writeDone
  /-- the bus error response to an illegal read, with the data driven (R61) -/
  | readError (value : Word)
  /-- the bus error response to an illegal write (R61) -/
  | writeError
  deriving DecidableEq, Repr

/-- The state of BCODEC.  ID is hard-wired (R28) and the reserved bits and offsets read as 0 (R26, R27, R32, R36):
they are no fields, but constants of the one operation that reads the window. -/
structure State where
  /-- CMD, 32 bits (R21) -/
  cmd : Word
  /-- STATUS (R22 to R26) -/
  status : Status
  /-- CTRL.IRQEN = CTRL[0] (R27) -/
  irqen : Bool
  /-- BLK_HI, record bytes 0 to 3 (R29) -/
  blkHi : Word
  /-- BLK_LO, record bytes 4 to 7 (R30) -/
  blkLo : Word
  /-- SCORE (R31) -/
  score : Word
  /-- PIX_IN[0..15], 24 bits stored of each (R32) -/
  pixIn : Block
  /-- PIX_OUT[0..15], 24 bits stored of each (R33) -/
  pixOut : Block
  /-- PEND, the one accepted command not yet completed: the command whose `Instr.triple` is (OP, FSEL, CSEL) (R34) -/
  pend : Option Instr
  /-- the model's own: the actions still to come, in the one total order in which they take place (R7, R68); an input
  of the machine (log entry 1) -/
  schedule : List Action
  /-- the model's own: what BCODEC drove on the bus in the last step, `none` if that step was no HOST access
  (log entry 2) -/
  resp : Option Response
  /-- the model's own: how many unspecified reads have been answered, the index of the next free value (log entry 3) -/
  freeReads : Nat
  deriving DecidableEq, Repr

/-- Why a step stops with a fault.  BCODEC itself never faults (R200); the HOST does. -/
inductive Fault where
  /-- Raised by a HOST access that is not 32 bits wide or whose offset is not a multiple of 4 (R61, U13: a fault of the
  HOST agent).  `after` is the machine with no register changed, its bus response the error response: whoever lets the
  HOST go on goes on from there.  Safe: the run stops where BCODEC would go on (log entry 4). -/
  | hostBusError (access : Access) (after : State)
  deriving DecidableEq, Repr

/-- Why a step is refused. -/
inductive Refusal where
  /-- Raised by an arm of `exec` for an instruction that has no meaning yet.  Safe: nothing is said of it.  No arm
  raises it in this model. -/
  | notModelled (mnemonic : String)
  deriving DecidableEq, Repr

/-- STATUS after reset: all 0 (R230). -/
def Status.reset : Status :=
  { busy := false, done := false, err := false, errcode := 0#4 }

/-- The machine right after reset: every register 0x00000000 and PEND none (R230).  The model's own fields: no action
to come, no response driven, no free value drawn (DESIGN CHOICE, log entries 1 to 3). -/
def State.reset : State :=
  { cmd := 0#32
    status := Status.reset
    irqen := false
    blkHi := 0#32
    blkLo := 0#32
    score := 0#32
    pixIn := Vector.replicate 16 { r := 0#8, g := 0#8, b := 0#8 }
    pixOut := Vector.replicate 16 { r := 0#8, g := 0#8, b := 0#8 }
    pend := none
    schedule := []
    resp := none
    freeReads := 0 }

end Sys2Proof.Machine
end

