-- ==== Sys2Proof/Machine/Operands.lean ====
section
/-! DEFINITION. Every operand form of BCODEC: pixel registers (R32, R33), the fields of a record (R91 to R96), the
byte order of a record (R63, R90), the sub-block and selector geometry (R11, R121 to R123), and the offsets of the
registers of the window (R20, R36). -/

namespace Sys2Proof.Machine

/-! Pixel registers -/

/-- A pixel register as a HOST reads it: red in 23:16, green in 15:8, blue in 7:0, bits 31:24 zero (R32, R33, R180). -/
def pixelWord (p : Pixel) : Word :=
  0#8 ++ p.r ++ p.g ++ p.b

/-- What a HOST write of `v` stores in a pixel register: v[23:0]; bits 31:24 are ignored (R32). -/
def pixelOfWord (v : Word) : Pixel :=
  { r := v.extractLsb' 16 8, g := v.extractLsb' 8 8, b := v.extractLsb' 0 8 }

/-! The fields of a record -/

/-- FLIP = hi[0] (R91). -/
def recFlip (hi : Word) : Bool :=
  hi.getLsbD 0

/-- DIFF = hi[1] (R91). -/
def recDiff (hi : Word) : Bool :=
  hi.getLsbD 1

/-- `tbl(hi, j)`: TBL1 = hi[7:5] for sub-block 1, TBL2 = hi[4:2] for sub-block 2, in both modes (R91, R126, C1). -/
def recTable (hi : Word) : SubBlock → BitVec 3
  | .one => hi.extractLsb' 5 3
  | .two => hi.extractLsb' 2 3

/-- The 4-bit color of a sub-block in individual mode (R92). -/
def recColor4 (hi : Word) : SubBlock → Rgb 4
  | .one => { r := hi.extractLsb' 28 4, g := hi.extractLsb' 20 4, b := hi.extractLsb' 12 4 }
  | .two => { r := hi.extractLsb' 24 4, g := hi.extractLsb' 16 4, b := hi.extractLsb' 8 4 }

/-- The 5-bit base color of differential mode, that of sub-block 1 (R93). -/
def recColor5 (hi : Word) : Rgb 5 :=
  { r := hi.extractLsb' 27 5, g := hi.extractLsb' 19 5, b := hi.extractLsb' 11 5 }

/-- The 3-bit delta fields dR, dG, dB of differential mode (R93, R96). -/
def recDelta (hi : Word) : Rgb 3 :=
  { r := hi.extractLsb' 24 3, g := hi.extractLsb' 16 3, b := hi.extractLsb' 8 3 }

/-- The column of pixel i, x = i mod 4 (R11). -/
def column (i : Fin 16) : Nat :=
  i.val % 4

/-- The row of pixel i, y = i >> 2 (R11). -/
def row (i : Fin 16) : Nat :=
  i.val >>> 2

/-- The bit position of the selector of pixel i: k = 4x + y, column-major (R94, R122). -/
def selpos (i : Fin 16) : Nat :=
  4 * column i + row i

/-- The selector of pixel i: lo[16 + k] is its most significant bit and lo[k] its least significant bit (R94). -/
def recSelector (lo : Word) (i : Fin 16) : BitVec 2 :=
  lo.extractLsb' (16 + selpos i) 1 ++ lo.extractLsb' (selpos i) 1

/-- The sub-block of pixel i: FLIP = 0 splits into left and right halves, FLIP = 1 into top and bottom (R121). -/
def subblock (i : Fin 16) (flip : Bool) : SubBlock :=
  if flip then (if row i < 2 then .one else .two) else (if column i < 2 then .one else .two)

/-- The members of a sub-block, in increasing i (R123). -/
def members (flip : Bool) (j : SubBlock) : List (Fin 16) :=
  (List.finRange 16).filter fun i => subblock i flip = j

/-! The byte order of a record -/

/-- The words (BLK_HI, BLK_LO) of a record held as bytes b0 to b7: each word most significant byte first
(R63, R90). -/
def recordOfBytes (b : Vector Byte 8) : Word × Word :=
  (b[0] ++ b[1] ++ b[2] ++ b[3], b[4] ++ b[5] ++ b[6] ++ b[7])

/-- The bytes b0 to b7 of a record (R63, R90). -/
def bytesOfRecord (hi lo : Word) : Vector Byte 8 :=
  #v[hi.extractLsb' 24 8, hi.extractLsb' 16 8, hi.extractLsb' 8 8, hi.extractLsb' 0 8,
    lo.extractLsb' 24 8, lo.extractLsb' 16 8, lo.extractLsb' 8 8, lo.extractLsb' 0 8]

/-! The offsets of the window -/

/-- The offset of a register (R20).  The reserved offsets are many; 0x01C is the first of them. -/
def regOffset : Reg → BitVec 8
  | .cmd => 0x00#8
  | .status => 0x04#8
  | .ctrl => 0x08#8
  | .ident => 0x0C#8
  | .blkHi => 0x10#8
  | .blkLo => 0x14#8
  | .score => 0x18#8
  | .pixIn i => BitVec.ofNat 8 (0x40 + 4 * i.val)
  | .pixOut i => BitVec.ofNat 8 (0x80 + 4 * i.val)
  | .reserved => 0x1C#8

/-- The register at an offset that is a multiple of 4: rule R20's, and the reserved offsets 0x01C to 0x03C and
0x0C0 to 0x0FC (R36). -/
def regAt (off : BitVec 8) : Reg :=
  let n := off.toNat
  if n = 0x00 then .cmd
  else if n = 0x04 then .status
  else if n = 0x08 then .ctrl
  else if n = 0x0C then .ident
  else if n = 0x10 then .blkHi
  else if n = 0x14 then .blkLo
  else if n = 0x18 then .score
  else if 0x40 ≤ n ∧ n < 0x80 then .pixIn (Fin.ofNat 16 ((n - 0x40) / 4))
  else if 0x80 ≤ n ∧ n < 0xC0 then .pixOut (Fin.ofNat 16 ((n - 0x80) / 4))
  else .reserved

/-- The offset in the window that a bus address names, if it lies in BASE to BASE + 0x0FF; an address outside is the
platform's, and no access of BCODEC (R66, U12). -/
def offsetOfAddress (address : Nat) : Option (BitVec 8) :=
  if Config.base ≤ address ∧ address < Config.base + 0x100 then some (BitVec.ofNat 8 (address - Config.base)) else none

end Sys2Proof.Machine
end

