-- ==== Sys2Proof/Machine/Datapath.lean ====
section
/-! DEFINITION. The shared datapath of ENC, DEC and EVAL (40_datapath.md): color expansion, the delta applier, the
quantizers, the modifier table, reconstruction, decoding of a record, and the error measure. -/

namespace Sys2Proof.Machine

/-- 4-bit to 8-bit expansion by bit replication (R111). -/
def ext4 (c : BitVec 4) : Byte :=
  (c.setWidth 8 <<< 4) ||| c.setWidth 8

/-- 5-bit to 8-bit expansion by bit replication (R112). -/
def ext5 (c : BitVec 5) : Byte :=
  (c.setWidth 8 <<< 3) ||| (c.setWidth 8 >>> 2)

/-- Delta decoding, two's complement in three bits (R96, R113). -/
def sdelta (d : BitVec 3) : Int :=
  if 4 ≤ d.toNat then (d.toNat : Int) - 8 else (d.toNat : Int)

/-- The delta applier: (b + sdelta(d)) mod 32 (R114). -/
def applyDelta (b : BitVec 5) (d : BitVec 3) : BitVec 5 :=
  BitVec.ofInt 5 ((b.toNat : Int) + sdelta d)

/-- `div255(n) = (n + 128 + (n >> 8)) >> 8` (R115). -/
def div255 (n : Nat) : Nat :=
  (n + 128 + (n >>> 8)) >>> 8

/-- 8-bit to 5-bit quantization (R115). -/
def quant5 (v : Byte) : BitVec 5 :=
  BitVec.ofNat 5 (div255 (31 * v.toNat))

/-- 8-bit to 4-bit quantization (R116). -/
def quant4 (v : Byte) : BitVec 4 :=
  BitVec.ofNat 4 (div255 (15 * v.toNat))

/-- Row t of the modifier table, the magnitudes (a_t, b_t) (R117). -/
def modifierRow (t : BitVec 3) : Int × Int :=
  match t.toNat with
  | 0 => (2, 8)
  | 1 => (5, 17)
  | 2 => (9, 29)
  | 3 => (13, 42)
  | 4 => (18, 60)
  | 5 => (24, 80)
  | 6 => (33, 106)
  | _ => (47, 183)

/-- Modifier selection: +a, +b, −a, −b for the selectors 0, 1, 2, 3 (R118, C2). -/
def modval (t : BitVec 3) (s : BitVec 2) : Int :=
  match s.toNat with
  | 0 => (modifierRow t).1
  | 1 => (modifierRow t).2
  | 2 => -(modifierRow t).1
  | _ => -(modifierRow t).2

/-- Clamping to 0 to 255 (R119). -/
def clamp8 (v : Int) : Byte :=
  if v < 0 then 0#8 else if 255 < v then 255#8 else BitVec.ofInt 8 v

/-- Pixel reconstruction: one modifier added to every channel of the base color, exactly, then clamped (R120). -/
def recon (c : Pixel) (t : BitVec 3) (s : BitVec 2) : Pixel :=
  c.map fun ch => clamp8 ((ch.toNat : Int) + modval t s)

/-- The base color of a sub-block of a record (R124, R125, R126). -/
def baseColor (hi : Word) (j : SubBlock) : Pixel :=
  if recDiff hi then
    match j with
    | .one => (recColor5 hi).map ext5
    | .two => (Rgb.map2 applyDelta (recColor5 hi) (recDelta hi)).map ext5
  else
    (recColor4 hi j).map ext4

/-- Pixel i of the decoding of a record (R127). -/
def decodePixel (hi lo : Word) (i : Fin 16) : Pixel :=
  let j := subblock i (recFlip hi)
  recon (baseColor hi j) (recTable hi j) (recSelector lo i)

/-- `Decode(hi, lo)`: the 16 pixels of a record, total on all 2^64 records (R127). -/
def decodeRecord (hi lo : Word) : Block :=
  Vector.ofFn (decodePixel hi lo)

/-- The square of the difference of two channel values, exact (R129). -/
def sqDiff (a b : Byte) : Nat :=
  ((a.toNat : Int) - (b.toNat : Int)).natAbs ^ 2

/-- The error measure of one pixel, with weights 3, 6 and 1 (R129). -/
def err (p q : Pixel) : Nat :=
  3 * sqDiff p.r q.r + 6 * sqDiff p.g q.g + sqDiff p.b q.b

/-- `Score(P, Q)`: the error summed over the 16 pixels (R129). -/
def blockScore (P Q : Block) : Nat :=
  ((List.finRange 16).map fun i => err P[i] Q[i]).sum

end Sys2Proof.Machine
end

