-- ==== Sys2Proof/Machine/Encoder.lean ====
section
/-! DEFINITION. `EncodeBlock` (41_encode.md section 2): the partition selector, the color quantizer and the partition
error minimizer, as the one exact search the spec fixes. -/

namespace Sys2Proof.Machine

/-- The first element with the least `f`, of `best` followed by a list: the tie-break of `argmin` (R9) and of the
selection among candidates (R152). -/
def argminFrom {α : Type} (f : α → Nat) : α → List α → α
  | best, [] => best
  | best, x :: xs => if f x < f best then argminFrom f x xs else argminFrom f best xs

/-- The candidate flips, in order (R142). -/
def flips : FSel → List Bool
  | .auto => [false, true]
  | .lr => [false]
  | .tb => [true]

/-- The rounded mean of one channel of a sub-block: (sum + 4) >> 3 (R143). -/
def channelAvg (P : Block) (flip : Bool) (j : SubBlock) (channel : Pixel → Byte) : Byte :=
  BitVec.ofNat 8 ((((members flip j).map fun i => (channel P[i]).toNat).sum + 4) >>> 3)

/-- `avg(j, f)`: the average of a sub-block (R143). -/
def avg (P : Block) (flip : Bool) (j : SubBlock) : Pixel :=
  { r := channelAvg P flip j (·.r), g := channelAvg P flip j (·.g), b := channelAvg P flip j (·.b) }

/-- q1 and q2: the 5-bit quantized average of a sub-block (R144). -/
def quantized5 (P : Block) (flip : Bool) (j : SubBlock) : Rgb 5 :=
  (avg P flip j).map quant5

/-- n1 and n2: the 4-bit quantized average of a sub-block (R146). -/
def quantized4 (P : Block) (flip : Bool) (j : SubBlock) : Rgb 4 :=
  (avg P flip j).map quant4

/-- d = q2 − q1 of one channel, exact (R144). -/
def delta (q1 q2 : BitVec 5) : Int :=
  (q2.toNat : Int) - (q1.toNat : Int)

/-- A delta lies in the range −4 to 3 of the 3-bit signed field (R144). -/
def deltaFits (q1 q2 : BitVec 5) : Bool :=
  decide (-4 ≤ delta q1 q2 ∧ delta q1 q2 ≤ 3)

/-- The differential candidate of a flip exists: every channel of d fits (R144). -/
def representable (P : Block) (flip : Bool) : Bool :=
  let q1 := quantized5 P flip .one
  let q2 := quantized5 P flip .two
  deltaFits q1.r q2.r && deltaFits q1.g q2.g && deltaFits q1.b q2.b

/-- d & 7, the delta field of a channel (R145). -/
def deltaField (q1 q2 : BitVec 5) : BitVec 3 :=
  BitVec.ofInt 3 (delta q1 q2)

/-- What a candidate's quantized colors give: its color bits hi[31:8], its DIFF bit and its base colors
(R145, R146). -/
structure Colors where
  bits : BitVec 24
  diff : Bool
  base1 : Pixel
  base2 : Pixel
  deriving DecidableEq, Repr

/-- The base color of a sub-block of a candidate (R150). -/
def Colors.base (c : Colors) : SubBlock → Pixel
  | .one => c.base1
  | .two => c.base2

/-- The differential candidate's colors (R145); the places of the fields are those of the bit map R97. -/
def differentialColors (P : Block) (flip : Bool) : Colors :=
  let q1 := quantized5 P flip .one
  let q2 := quantized5 P flip .two
  let d := Rgb.map2 deltaField q1 q2
  { bits := q1.r ++ d.r ++ q1.g ++ d.g ++ q1.b ++ d.b
    diff := true
    base1 := q1.map ext5
    base2 := q2.map ext5 }

/-- The individual candidate's colors (R146); the places of the fields are those of the bit map R97. -/
def individualColors (P : Block) (flip : Bool) : Colors :=
  let n1 := quantized4 P flip .one
  let n2 := quantized4 P flip .two
  { bits := n1.r ++ n2.r ++ n1.g ++ n2.g ++ n1.b ++ n2.b
    diff := false
    base1 := n1.map ext4
    base2 := n2.map ext4 }

/-- The colors of a candidate (f, mode) (R145, R146). -/
def colors (P : Block) (flip : Bool) : Mode → Colors
  | .differential => differentialColors P flip
  | .individual => individualColors P flip

/-- The color-mode candidates of a flip, in order (R147). -/
def modes (P : Block) (cs : CSel) (flip : Bool) : List Mode :=
  match cs with
  | .best => if representable P flip then [.differential, .individual] else [.individual]
  | .ind => [.individual]
  | .dpref => if representable P flip then [.differential] else [.individual]

/-- `bestSel(p, c, t)`: the smallest selector among those of least error (R149). -/
def bestSel (p c : Pixel) (t : BitVec 3) : BitVec 2 :=
  argminFrom (fun s => err p (recon c t s)) 0#2 [1#2, 2#2, 3#2]

/-- `bestErr(p, c, t)`: the least error over the four selectors (R149). -/
def bestErr (p c : Pixel) (t : BitVec 3) : Nat :=
  min (min (err p (recon c t 0#2)) (err p (recon c t 1#2))) (min (err p (recon c t 2#2)) (err p (recon c t 3#2)))

/-- `E(j, t)`: the least error of a sub-block with base color c and table t (R150). -/
def tableErr (P : Block) (flip : Bool) (j : SubBlock) (c : Pixel) (t : BitVec 3) : Nat :=
  ((members flip j).map fun i => bestErr P[i] c t).sum

/-- `T_j`: the smallest table index among those of least error (R150). -/
def bestTable (P : Block) (flip : Bool) (j : SubBlock) (c : Pixel) : BitVec 3 :=
  argminFrom (tableErr P flip j c) 0#3 [1#3, 2#3, 3#3, 4#3, 5#3, 6#3, 7#3]

/-- A candidate: its record and its score (R151). -/
structure Candidate where
  hi : Word
  lo : Word
  score : Nat
  deriving DecidableEq, Repr

/-- The bits of lo for the selector `s` of pixel i (R151). -/
def selectorBits (i : Fin 16) (s : BitVec 2) : Word :=
  ((s >>> 1).setWidth 32 <<< (16 + selpos i)) ||| ((s &&& 1#2).setWidth 32 <<< selpos i)

/-- The word lo of the selectors of the 16 pixels (R151). -/
def packSelectors (s : Fin 16 → BitVec 2) : Word :=
  (List.finRange 16).foldl (fun lo i => lo ||| selectorBits i (s i)) 0#32

/-- The word hi of a candidate (R151). -/
def packHi (colorBits : BitVec 24) (t1 t2 : BitVec 3) (diff flip : Bool) : Word :=
  colorBits ++ t1 ++ t2 ++ BitVec.ofBool diff ++ BitVec.ofBool flip

/-- The candidate (f, mode) for given colors: tables and selectors chosen by the error minimizer (R150, R151). -/
def candidateOf (P : Block) (flip : Bool) (c : Colors) : Candidate :=
  let t1 := bestTable P flip .one c.base1
  let t2 := bestTable P flip .two c.base2
  let tableOf : SubBlock → BitVec 3 := fun j => match j with | .one => t1 | .two => t2
  { hi := packHi c.bits t1 t2 c.diff flip
    lo := packSelectors fun i => bestSel P[i] (c.base (subblock i flip)) (tableOf (subblock i flip))
    score := tableErr P flip .one c.base1 t1 + tableErr P flip .two c.base2 t2 }

/-- The candidates of an ENC command, in order (R148). -/
def candidates (P : Block) (fs : FSel) (cs : CSel) : List Candidate :=
  (flips fs).flatMap fun f => (modes P cs f).map fun m => candidateOf P f (colors P f m)

/-- The first candidate of least score (R152).  The empty list, for which a candidate of zeros is answered, does not
occur: `flips` and `modes` are never empty. -/
def keepLeast : List Candidate → Candidate
  | [] => { hi := 0#32, lo := 0#32, score := 0 }
  | c :: cs => argminFrom Candidate.score c cs

/-- `EncodeBlock(P, flips, CSEL)` (R152). -/
def encodeBlock (P : Block) (fs : FSel) (cs : CSel) : Candidate :=
  keepLeast (candidates P fs cs)

end Sys2Proof.Machine
end

