-- ==== Sys2Proof/Machine/Flags.lean ====
section
/-! DEFINITION. Every flag computation of BCODEC: the STATUS word, recording an error, accepting and completing a
command, write-one-to-clear, and the interrupt output. -/

namespace Sys2Proof.Machine

/-- The code of an error (R25, R201). -/
def errorCode : ErrorCause → BitVec 4
  | .badOp => 0x1#4
  | .badField => 0x2#4
  | .busyCmd => 0x3#4
  | .busyWrite => 0x4#4

/-- STATUS as a HOST reads it: BUSY in bit 0, DONE in bit 1, ERR in bit 2, ERRCODE in bits 7:4, bits 3 and 31:8 zero
(R22 to R26). -/
def Status.word (st : Status) : Word :=
  0#24 ++ st.errcode ++ 0#1 ++ BitVec.ofBool st.err ++ BitVec.ofBool st.done ++ BitVec.ofBool st.busy

/-- `raise Error(code)`: the first error since ERR was last 0 is kept (R202). -/
def Status.raise (e : ErrorCause) (st : Status) : Status :=
  if st.err then st else { st with err := true, errcode := errorCode e }

/-- The flags when a command is accepted (R87). -/
def Status.accept (_ : Status) : Status :=
  { busy := true, done := false, err := false, errcode := 0#4 }

/-- The flags when the ENGINE completes a command: BUSY and DONE only (R34, R140). -/
def Status.complete (st : Status) : Status :=
  { st with busy := false, done := true }

/-- A HOST write of `v` to STATUS: bit 1 clears DONE, bit 2 clears ERR together with ERRCODE, nothing else changes
(R23, R24, R26).  This is also the only way back from an error besides a legal command (R206). -/
def Status.writeOneToClear (v : Word) (st : Status) : Status :=
  { busy := st.busy
    done := if v.getLsbD 1 then false else st.done
    err := if v.getLsbD 2 then false else st.err
    errcode := if v.getLsbD 2 then 0#4 else st.errcode }

/-- The interrupt output: CTRL.IRQEN and (STATUS.DONE or STATUS.ERR), at every instant (R210). -/
def irq (s : State) : Bool :=
  s.irqen && (s.status.done || s.status.err)

end Sys2Proof.Machine
end

