-- ==== Sys2Proof/Machine/Ops.lean ====
section
/-! DEFINITION. The named operations on State: the updates every action is made of (R40), the register window
(R20 to R39), the HOST access (R60, R61), and what a step of the machine fetches (R34, R68). -/

namespace Sys2Proof.Machine

/-! The updates of State.  None writes anything but the fields it names (R40). -/

/-- `raise Error(code)`: the one shared operation that records an error (R202).  It is BCODEC's whole error entry: no
state is saved, no mode or control flow changes (R205). -/
def State.raise (e : ErrorCause) (s : State) : State :=
  { s with status := s.status.raise e }

/-- Clearing STATUS bits by a HOST write, the return from an error (R23, R24, R206). -/
def State.clearStatus (v : Word) (s : State) : State :=
  { s with status := s.status.writeOneToClear v }

/-- CMD stores the word written (R21). -/
def State.setCmd (v : Word) (s : State) : State :=
  { s with cmd := v }

/-- CTRL.IRQEN takes bit 0 of the word written (R27). -/
def State.setCtrl (v : Word) (s : State) : State :=
  { s with irqen := v.getLsbD 0 }

/-- BLK_HI takes all 32 bits (R29). -/
def State.setBlkHi (v : Word) (s : State) : State :=
  { s with blkHi := v }

/-- BLK_LO takes all 32 bits (R30). -/
def State.setBlkLo (v : Word) (s : State) : State :=
  { s with blkLo := v }

/-- PIX_IN[i] takes v[23:0] (R32). -/
def State.setPixIn (i : Fin 16) (v : Word) (s : State) : State :=
  { s with pixIn := s.pixIn.set i.val (pixelOfWord v) i.isLt }

/-- Acceptance of a command: PEND, BUSY, DONE, ERR and ERRCODE (R87). -/
def State.accept (i : Instr) (s : State) : State :=
  { s with pend := some i, status := s.status.accept }

/-- Completion of the pending command: PEND, BUSY and DONE (R34). -/
def State.complete (s : State) : State :=
  { s with pend := none, status := s.status.complete }

/-- `WriteOut(hi, lo)`: all 16 entries of PIX_OUT take the decoding of the record (R180). -/
def State.writeOut (hi lo : Word) (s : State) : State :=
  { s with pixOut := decodeRecord hi lo }

/-- SCORE takes a score (R31). -/
def State.setScore (n : Nat) (s : State) : State :=
  { s with score := BitVec.ofNat 32 n }

/-- Drawing one free value for an unspecified read: only the model's own counter changes (R39). -/
def State.drawFree (s : State) : State :=
  { s with freeReads := s.freeReads + 1 }

/-- What BCODEC drives on the bus in this step (R60, R61). -/
def State.respond (r : Response) (s : State) : State :=
  { s with resp := some r }

/-- The start of a step: the next action leaves the schedule, and nothing is driven on the bus yet. -/
def State.beginStep (s : State) : State :=
  { s with schedule := s.schedule.tail, resp := none }

/-- Reset: every register and PEND at its reset value, a pending command abandoned (R230, R231).  The actions still to
come and the index of the next free value are not registers, and stay. -/
def State.resetAction (s : State) : State :=
  { State.reset with schedule := s.schedule, freeReads := s.freeReads }

/-! The register window -/

/-- The value of ID, hard-wired (R28). -/
def identValue : Word := 0x45544331#32

/-- The current value of a register as the rules define it (R20 to R33); reserved offsets read 0 (R36). -/
def regValue (s : State) : Reg → Word
  | .cmd => s.cmd
  | .status => s.status.word
  | .ctrl => 0#31 ++ BitVec.ofBool s.irqen
  | .ident => identValue
  | .blkHi => s.blkHi
  | .blkLo => s.blkLo
  | .score => s.score
  | .pixIn i => pixelWord s.pixIn[i]
  | .pixOut i => pixelWord s.pixOut[i]
  | .reserved => 0#32

/-- The registers a HOST read of which is unspecified while BUSY = 1 (R39). -/
def isResult : Reg → Bool
  | .blkHi => true
  | .blkLo => true
  | .score => true
  | .pixOut _ => true
  | _ => false

/-- A legal HOST read: the register's value, or a free value for a result register while BUSY = 1; no register
changes (R39, R60, R65). -/
def readReg (r : Reg) (s : State) : State :=
  if s.status.busy && isResult r then
    (s.respond (.readData (Config.unspecifiedRead s.freeReads))).drawFree
  else
    s.respond (.readData (regValue s r))

/-- A HOST write to CMD: dropped with BUSY_CMD while BUSY = 1, else stored and decoded (R21, R84 to R87). -/
def writeCmd (v : Word) (s : State) : State :=
  if s.status.busy then s.raise .busyCmd
  else
    match decode v with
    | .command i => (s.setCmd v).accept i
    | .rejected e => (s.setCmd v).raise e

/-- A HOST write to an operand register: dropped with BUSY_WRITE while BUSY = 1 (R29, R30, R32, R201). -/
def writeOperand (store : State → State) (s : State) : State :=
  if s.status.busy then s.raise .busyWrite else store s

/-- The effect of a legal HOST write on the registers (R20 to R36). -/
def writeEffect (r : Reg) (v : Word) (s : State) : State :=
  match r with
  | .cmd => writeCmd v s
  | .status => s.clearStatus v
  | .ctrl => s.setCtrl v
  | .ident => s
  | .blkHi => writeOperand (State.setBlkHi v) s
  | .blkLo => writeOperand (State.setBlkLo v) s
  | .score => s
  | .pixIn i => writeOperand (State.setPixIn i v) s
  | .pixOut _ => s
  | .reserved => s

/-- A legal HOST write (R60). -/
def writeReg (r : Reg) (v : Word) (s : State) : State :=
  (writeEffect r v s).respond .writeDone

/-- The bus error response to an access (R61): a read drives 0. -/
def errorResponse : Access → Response
  | .read _ _ => .readError 0#32
  | .write _ _ _ => .writeError

/-- A HOST access: legal and performed (R60), or a fault of the HOST that changes no register (R61). -/
def hostAccess (a : Access) (s : State) : Host.Outcome State Fault Refusal :=
  if a.wellFormed then
    match a with
    | .read off _ => .next (readReg (regAt off) s)
    | .write off _ v => .next (writeReg (regAt off) v s)
  else .fault (.hostBusError a (s.respond (errorResponse a)))

/-! WAIT -/

/-- A value read from STATUS ends `WAIT`: bit 1 (DONE) or bit 2 (ERR) is set (R99). -/
def waitEnds (v : Word) : Bool :=
  v.getLsbD 1 || v.getLsbD 2

/-- What comes next after a poll that does not end `WAIT`: further polls, the ENGINE having its turn when none is left
before it (R99, R7, R35).  A WAIT that nothing ends polls for ever. -/
def afterPoll : Nat → List Action
  | 0 => [.engine, .wait 0]
  | polls + 1 => [.wait polls]

/-- The HOST stays in `WAIT` (R99). -/
def State.keepWaiting (polls : Nat) (s : State) : State :=
  { s with schedule := afterPoll polls ++ s.schedule }

/-- One poll of `WAIT`: a legal read of STATUS, after which the HOST goes on or stays in WAIT by the value read
(R99, R60). -/
def waitPoll (polls : Nat) (s : State) : State :=
  if waitEnds (regValue s .status) then readReg .status s else (readReg .status s).keepWaiting polls

/-! What a step fetches -/

/-- The next action in the total order.  When no action is to come the ENGINE has its turn, so that a pending command
completes (R35). -/
def nextAction (s : State) : Action :=
  match s.schedule with
  | [] => .engine
  | a :: _ => a

/-- What the ENGINE fetches: the pending command; it is enabled exactly when there is one (R34). -/
def fetch (s : State) : Option Instr :=
  s.pend

/-- The state in which a HOST's write of `v` to CMD has just been accepted as the command `i` and the ENGINE has the
next turn (R21, R87). -/
def placeCommand (i : Instr) (v : Word) (s : State) : State :=
  { ((s.setCmd v).accept i) with schedule := .engine :: s.schedule }

/-- The state in which the next action is a HOST write of `v` to CMD. -/
def placeWrite (v : Word) (s : State) : State :=
  { s with schedule := .host (.write (regOffset .cmd) 32 v) :: s.schedule }

/-- Placing a command word where the next step fetches: a legal command as accepted and pending, any other word as the
HOST's write of it. -/
def placeWord (v : Word) (s : State) : State :=
  match decode v with
  | .command i => placeCommand i v s
  | .rejected _ => placeWrite v s

end Sys2Proof.Machine
end

