-- ==== Sys2Proof/Machine/Dec.lean ====
section
/-! DEFINITION. DEC (42_decode_eval.md section 2). -/

namespace Sys2Proof.Machine

/-- DEC at its ENGINE step: PIX_OUT takes the decoding of (BLK_HI, BLK_LO), and the command completes
(R180, R181, R183, R34). -/
def execDec (s : State) : Host.Outcome State Fault Refusal :=
  .next (s.writeOut s.blkHi s.blkLo).complete

end Sys2Proof.Machine
end

