-- ==== Sys2Proof/Machine/Enc.lean ====
section
/-! DEFINITION. The nine ENC variants (41_encode.md section 3). -/

namespace Sys2Proof.Machine

/-- ENC at its ENGINE step, for given FSEL and CSEL: BLK_HI, BLK_LO and SCORE take the result of EncodeBlock on
PIX_IN, PIX_OUT the decoding of the new record, and the command completes (R140, R141, R34). -/
def execEnc (fs : FSel) (cs : CSel) (s : State) : Host.Outcome State Fault Refusal :=
  let c := encodeBlock s.pixIn fs cs
  .next ((((s.setBlkHi c.hi).setBlkLo c.lo).setScore c.score).writeOut c.hi c.lo).complete

/-- ENC.AUTO.BEST (R160): both partitions; differential colors where representable, then individual. -/
def execEncAutoBest (s : State) : Host.Outcome State Fault Refusal :=
  execEnc .auto .best s

/-- ENC.LR.BEST (R161): the left/right partition; differential colors where representable, then individual. -/
def execEncLrBest (s : State) : Host.Outcome State Fault Refusal :=
  execEnc .lr .best s

/-- ENC.TB.BEST (R162): the top/bottom partition; differential colors where representable, then individual. -/
def execEncTbBest (s : State) : Host.Outcome State Fault Refusal :=
  execEnc .tb .best s

/-- ENC.AUTO.IND (R163): both partitions; individual colors only. -/
def execEncAutoInd (s : State) : Host.Outcome State Fault Refusal :=
  execEnc .auto .ind s

/-- ENC.LR.IND (R164): the left/right partition; individual colors only. -/
def execEncLrInd (s : State) : Host.Outcome State Fault Refusal :=
  execEnc .lr .ind s

/-- ENC.TB.IND (R165): the top/bottom partition; individual colors only. -/
def execEncTbInd (s : State) : Host.Outcome State Fault Refusal :=
  execEnc .tb .ind s

/-- ENC.AUTO.DPREF (R166): both partitions; differential colors where representable, else individual. -/
def execEncAutoDpref (s : State) : Host.Outcome State Fault Refusal :=
  execEnc .auto .dpref s

/-- ENC.LR.DPREF (R167): the left/right partition; differential colors where representable, else individual. -/
def execEncLrDpref (s : State) : Host.Outcome State Fault Refusal :=
  execEnc .lr .dpref s

/-- ENC.TB.DPREF (R168): the top/bottom partition; differential colors where representable, else individual. -/
def execEncTbDpref (s : State) : Host.Outcome State Fault Refusal :=
  execEnc .tb .dpref s

end Sys2Proof.Machine
end

