-- ==== Sys2Proof/Machine/Eval.lean ====
section
/-! DEFINITION. EVAL (42_decode_eval.md section 3). -/

namespace Sys2Proof.Machine

/-- EVAL at its ENGINE step: PIX_OUT takes the decoding of (BLK_HI, BLK_LO), SCORE its score against PIX_IN, and the
command completes (R184, R34). -/
def execEval (s : State) : Host.Outcome State Fault Refusal :=
  .next ((s.writeOut s.blkHi s.blkLo).setScore (blockScore s.pixIn (decodeRecord s.blkHi s.blkLo))).complete

end Sys2Proof.Machine
end

