-- ==== Sys2Proof/Machine/Dispatch.lean ====
section
/-! DEFINITION. One arm per command: its ENGINE step (R34). -/

namespace Sys2Proof.Machine

def exec (i : Instr) (s : State) : Host.Outcome State Fault Refusal :=
  match i with
  | .dec => Sys2Proof.Machine.execDec s
  | .eval => Sys2Proof.Machine.execEval s
  | .encAutoBest => Sys2Proof.Machine.execEncAutoBest s
  | .encLrBest => Sys2Proof.Machine.execEncLrBest s
  | .encTbBest => Sys2Proof.Machine.execEncTbBest s
  | .encAutoInd => Sys2Proof.Machine.execEncAutoInd s
  | .encLrInd => Sys2Proof.Machine.execEncLrInd s
  | .encTbInd => Sys2Proof.Machine.execEncTbInd s
  | .encAutoDpref => Sys2Proof.Machine.execEncAutoDpref s
  | .encLrDpref => Sys2Proof.Machine.execEncLrDpref s
  | .encTbDpref => Sys2Proof.Machine.execEncTbDpref s

end Sys2Proof.Machine
end

