-- ==== Sys2Proof/Machine/Step.lean ====
section
/-! DEFINITION. One step of the machine: the next action of the total order (R7, R68).  The ENGINE's turn runs the
pending command (R34). -/

namespace Sys2Proof.Machine

/-- The ENGINE's turn: the pending command's own step, or nothing when none is pending (R34, R232). -/
def engineTurn (s : State) : Host.Outcome State Fault Refusal :=
  match fetch s with
  | none => .next s
  | some i => exec i s

/-- One step: the next action takes place. -/
def step (s : State) : Host.Outcome State Fault Refusal :=
  match nextAction s with
  | .engine => engineTurn s.beginStep
  | .host a => hostAccess a s.beginStep
  | .wait polls => .next (waitPoll polls s.beginStep)
  | .reset => .next s.beginStep.resetAction

/-- `s` with the command word of `nbits` bits `w` where the next step fetches: as the pending command that a HOST's
write of it to CMD makes it, the ENGINE having the next turn (log entry 7). -/
def State.withFetchWord (s : State) (nbits w : Nat) : State :=
  match tableWord nbits w with
  | none => s
  | some v => placeWord v s

end Sys2Proof.Machine
end

