-- ==== Sys2Proof/Machine/HostSyntax.lean ====
section
/-! DEFINITION. The host transaction syntax (30_encoding.md section 3): register accesses by name, the
pseudo-instructions with their expansions, and a host program's lines as the machine's schedule (log entry 7).  WAIT
expands to the HOST's loop on STATUS, which the step performs read by read (`waitPoll`); every expansion takes the number
of polls after which the ENGINE has its turn, which R7 leaves free (log entry 14). -/

namespace Sys2Proof.Machine

/-- `WR <reg>, <value>` (R98). -/
def wr (r : Reg) (v : Word) : Access :=
  .write (regOffset r) 32 v

/-- `RD <reg>` (R98). -/
def rd (r : Reg) : Access :=
  .read (regOffset r) 32

/-- The pseudo-instructions (R99). -/
inductive Pseudo where
  | dec
  | eval
  /-- `ENC <f>, <c>` -/
  | enc (f : FSel) (c : CSel)
  /-- `ENC` with no operand, that is `ENC AUTO, BEST` -/
  | encDefault
  | ack
  | ldblk (hi lo : Word)
  | ldpix (i : Fin 16) (r g b : Byte)
  | fill (r g b : Byte)
  | wait
  deriving DecidableEq, Repr

/-- The word `LDPIX` writes: (r << 16) | (g << 8) | b (R99). -/
def ldpixWord (r g b : Byte) : Word :=
  (r.setWidth 32 <<< 16) ||| (g.setWidth 32 <<< 8) ||| b.setWidth 32

/-- The word `ENC <f>, <c>` writes: 0x2 | (f << 4) | (c << 6) (R99). -/
def encWord (f : FSel) (c : CSel) : Word :=
  0x2#32 ||| (f.bits.setWidth 32 <<< 4) ||| (c.bits.setWidth 32 <<< 6)

/-- The accesses of a pseudo-instruction other than `WAIT`, which is the loop of `Pseudo.expand` (R99). -/
def Pseudo.accesses : Pseudo → List Access
  | .dec => [wr .cmd 0x00000001#32]
  | .eval => [wr .cmd 0x00000003#32]
  | .enc f c => [wr .cmd (encWord f c)]
  | .encDefault => [wr .cmd (encWord .auto .best)]
  | .ack => [wr .status 0x00000006#32]
  | .ldblk hi lo => [wr .blkHi hi, wr .blkLo lo]
  | .ldpix i r g b => [wr (.pixIn i) (ldpixWord r g b)]
  | .fill r g b => (List.finRange 16).map fun i => wr (.pixIn i) (ldpixWord r g b)
  | .wait => []

/-- The expansion of a pseudo-instruction (R99): its accesses, or for `WAIT` the HOST's loop on STATUS. -/
def Pseudo.expand (polls : Nat) : Pseudo → List Action
  | .wait => [.wait polls]
  | p => p.accesses.map Action.host

/-- One line of a host program (R98): a write or a read of a register by name, the same at an offset, or a
pseudo-instruction. -/
inductive Line where
  | write (r : Reg) (v : Word)
  | read (r : Reg)
  | writeAt (offset : BitVec 8) (v : Word)
  | readAt (offset : BitVec 8)
  | pseudo (p : Pseudo)
  deriving DecidableEq, Repr

/-- What a line makes the HOST do (R98, R99). -/
def Line.expand (polls : Nat) : Line → List Action
  | .write r v => [.host (wr r v)]
  | .read r => [.host (rd r)]
  | .writeAt offset v => [.host (.write offset 32 v)]
  | .readAt offset => [.host (.read offset 32)]
  | .pseudo p => p.expand polls

/-- A host program as a schedule: its lines in order, the ENGINE having its turn in each WAIT after `polls` polls.  It is
one of the interleavings of R7; further turns of the ENGINE may be put between any two actions. -/
def hostProgram (polls : Nat) (p : List Line) : List Action :=
  p.flatMap (Line.expand polls)

end Sys2Proof.Machine
end

