-- ==== Sys2Proof/Safety.lean ====
section
/-! DEFINITION. What counts as a legal state and a safe run of BCODEC, in the terms the statements use. -/

namespace Sys2Proof.Machine

/-- The largest score, 16 × 10 × 255² (R31, R129). -/
def maxScore : Nat := 10404000

/-- The flags and PEND agree: BUSY = 1 exactly when a command is pending (R34), DONE = 1 implies BUSY = 0 (R23), ERR and
ERRCODE are 0 together (R25), ERRCODE is one of the codes 0 to 4 (R25). -/
abbrev Status.Inv (st : Status) (pend : Option Instr) : Prop :=
  st.busy = pend.isSome ∧
  (st.done = true → st.busy = false) ∧
  (st.err = false ↔ st.errcode = 0#4) ∧
  st.errcode.toNat ≤ 4

/-- The states BCODEC can be in: the flags agree, SCORE is within its bound (R31), and while a command is pending CMD
holds its word (R21, R84). -/
abbrev State.Inv (s : State) : Prop :=
  s.status.Inv s.pend ∧ s.score.toNat ≤ maxScore ∧ ∀ i ∈ s.pend, s.cmd = encode i

/-- Every HOST access still to come is legal (R60), so that no step can fault. -/
def State.legalSchedule (s : State) : Bool :=
  s.schedule.all fun a =>
    match a with
    | .host acc => acc.wellFormed
    | .engine => true
    | .wait _ => true
    | .reset => true

/-- The next turn is the ENGINE's: its action is next, or no action is to come (R35). -/
def State.engineNext (s : State) : Prop :=
  s.schedule = [] ∨ ∃ rest, s.schedule = .engine :: rest

end Sys2Proof.Machine
end

