-- ==== Sys2Proof/Certificates/Slice0/Obligations.lean ====
section
/-! DEFINITION. The statements for the provers.  Each docstring names the rules of spec/ the statement rests on. -/

open Sys2Proof Sys2Proof.Machine

/-! ## The command word -/

/-- The words of the opcode table decode to their rows (R80, R88, opcode_table.json). -/
def Obligations.TableWordsDecodeToTheirRows : Prop :=
  decode 0x00000001#32 = .command .dec ∧
  decode 0x00000003#32 = .command .eval ∧
  decode 0x00000002#32 = .command .encAutoBest ∧
  decode 0x00000012#32 = .command .encLrBest ∧
  decode 0x00000022#32 = .command .encTbBest ∧
  decode 0x00000042#32 = .command .encAutoInd ∧
  decode 0x00000052#32 = .command .encLrInd ∧
  decode 0x00000062#32 = .command .encTbInd ∧
  decode 0x00000082#32 = .command .encAutoDpref ∧
  decode 0x00000092#32 = .command .encLrDpref ∧
  decode 0x000000A2#32 = .command .encTbDpref

/-- Decoding and encoding agree on all 2^32 words and all eleven commands: a word decodes to a command exactly when it
is that command's word; the fields read as a command exactly when they are well-formed; and cutting a word into fields
and joining them loses no bit (R80 to R88). -/
def Obligations.DecodeAndEncodeAgree : Prop :=
  (∀ (v : Word) (i : Instr), decode v = .command i ↔ v = encode i) ∧
  (∀ f : CmdFields, f.wellFormed = true ↔ ∃ i, decodeFields f = .command i) ∧
  (∀ v : Word, (CmdFields.ofWord v).word = v) ∧
  (∀ f : CmdFields, CmdFields.ofWord f.word = f)

/-- R88: written to CMD while idle with no error recorded, exactly the eleven words start a command; every other word
raises BAD_OP or BAD_FIELD. -/
def Obligations.ExactlyElevenWordsStartACommand : Prop :=
  ∀ (s : State) (v : Word), s.status.busy = false → s.status.err = false →
    ∃ t, hostAccess (.write 0x00#8 32 v) s = .next t ∧
      (v ∈ [0x01#32, 0x03#32, 0x02#32, 0x12#32, 0x22#32, 0x42#32, 0x52#32, 0x62#32, 0x82#32, 0x92#32, 0xA2#32] →
        t.pend.isSome = true ∧ t.status.busy = true ∧ t.status.err = false) ∧
      (v ∉ [0x01#32, 0x03#32, 0x02#32, 0x12#32, 0x22#32, 0x42#32, 0x52#32, 0x62#32, 0x82#32, 0x92#32, 0xA2#32] →
        t.pend = s.pend ∧ t.status.busy = false ∧ t.status.err = true ∧
          (t.status.errcode = 0x1#4 ∨ t.status.errcode = 0x2#4))

/-! ## HOST writes to CMD -/

/-- R84: a write to CMD while BUSY = 1 raises BUSY_CMD and is otherwise ignored; while BUSY = 0 the word is stored, and
a reserved OP raises BAD_OP and nothing more. The model's own: `resp`, what was driven on the bus: log entry 2. -/
def Obligations.CmdWriteFirstChecksBusyThenOp : Prop :=
  ∀ (s : State) (v : Word),
    (s.status.busy = true →
      hostAccess (.write 0x00#8 32 v) s =
        .next { s with status := s.status.raise .busyCmd, resp := some .writeDone }) ∧
    (s.status.busy = false → ∃ t, hostAccess (.write 0x00#8 32 v) s = .next t ∧ t.cmd = v) ∧
    (s.status.busy = false → v.extractLsb' 0 4 ∉ [0x1#4, 0x2#4, 0x3#4] →
      hostAccess (.write 0x00#8 32 v) s =
        .next { s with cmd := v, status := s.status.raise .badOp, resp := some .writeDone })

/-- R85 and R86: while BUSY = 0, a legal OP with an illegal field raises BAD_FIELD and starts nothing. The model's own:
`resp`, what was driven on the bus: log entry 2. -/
def Obligations.CmdWriteRejectsIllegalFields : Prop :=
  ∀ (s : State) (v : Word), s.status.busy = false →
    ((v.extractLsb' 0 4 ∈ [0x1#4, 0x2#4, 0x3#4] →
      (v.extractLsb' 8 24 ≠ 0#24 ∨ (v.extractLsb' 0 4 ∈ [0x1#4, 0x3#4] ∧ v.extractLsb' 4 4 ≠ 0#4)) →
      hostAccess (.write 0x00#8 32 v) s =
        .next { s with cmd := v, status := s.status.raise .badField, resp := some .writeDone }) ∧
    (v.extractLsb' 0 4 = 0x2#4 → v.extractLsb' 8 24 = 0#24 →
      (v.extractLsb' 4 2 = 3#2 ∨ v.extractLsb' 6 2 = 3#2) →
      hostAccess (.write 0x00#8 32 v) s =
        .next { s with cmd := v, status := s.status.raise .badField, resp := some .writeDone }))

/-- R87: a word that passes every check is accepted, with PEND the triple of its fields; a word that fails one leaves
PEND, BUSY, DONE and every data register unchanged. The model's own: `resp`, what was driven on the bus: log entry 2;
PEND stored as a command: log entry 8. -/
def Obligations.CmdWriteAcceptsLegalCommands : Prop :=
  ∀ (s : State) (v : Word), s.status.busy = false →
    let legal := v.extractLsb' 8 24 = 0#24 ∧
      ((v.extractLsb' 0 4 ∈ [0x1#4, 0x3#4] ∧ v.extractLsb' 4 4 = 0#4) ∨
        (v.extractLsb' 0 4 = 0x2#4 ∧ v.extractLsb' 4 2 ≠ 3#2 ∧ v.extractLsb' 6 2 ≠ 3#2))
    (legal → ∃ i : Instr, i.triple = (v.extractLsb' 0 4, v.extractLsb' 4 2, v.extractLsb' 6 2) ∧
      hostAccess (.write 0x00#8 32 v) s =
        .next { s with
          cmd := v
          pend := some i
          status := { busy := true, done := false, err := false, errcode := 0#4 }
          resp := some .writeDone }) ∧
    (¬ legal → ∃ t, hostAccess (.write 0x00#8 32 v) s = .next t ∧
      t.pend = s.pend ∧ t.status.busy = s.status.busy ∧ t.status.done = s.status.done ∧
      t.blkHi = s.blkHi ∧ t.blkLo = s.blkLo ∧ t.score = s.score ∧ t.pixIn = s.pixIn ∧ t.pixOut = s.pixOut)

/-! ## HOST writes to the other registers -/

/-- BLK_HI and BLK_LO store all 32 bits while BUSY = 0; while BUSY = 1 the write is dropped with BUSY_WRITE (R29, R30,
R201). The model's own: `resp`, what was driven on the bus: log entry 2. -/
def Obligations.RecordRegistersAreWritableOnlyWhileIdle : Prop :=
  ∀ (s : State) (v : Word),
    (s.status.busy = false →
      hostAccess (.write 0x10#8 32 v) s = .next { s with blkHi := v, resp := some .writeDone } ∧
      hostAccess (.write 0x14#8 32 v) s = .next { s with blkLo := v, resp := some .writeDone }) ∧
    (s.status.busy = true →
      hostAccess (.write 0x10#8 32 v) s =
        .next { s with status := s.status.raise .busyWrite, resp := some .writeDone } ∧
      hostAccess (.write 0x14#8 32 v) s =
        .next { s with status := s.status.raise .busyWrite, resp := some .writeDone })

/-- PIX_IN[i] stores v[23:0] while BUSY = 0 and reads back as it with bits 31:24 zero; no other pixel changes; while
BUSY = 1 the write is dropped with BUSY_WRITE (R32, R201). The model's own: `resp`, what was driven on the bus: log
entry 2. -/
def Obligations.InputPixelsAreWritableOnlyWhileIdle : Prop :=
  ∀ (s : State) (i : Fin 16) (v : Word),
    (s.status.busy = false → ∃ pixels : Block,
      hostAccess (.write (BitVec.ofNat 8 (0x40 + 4 * i.val)) 32 v) s =
        .next { s with pixIn := pixels, resp := some .writeDone } ∧
      pixels[i] = { r := v.extractLsb' 16 8, g := v.extractLsb' 8 8, b := v.extractLsb' 0 8 } ∧
      (∀ k : Fin 16, k ≠ i → pixels[k] = s.pixIn[k]) ∧
      regValue { s with pixIn := pixels } (.pixIn i) = 0#8 ++ v.extractLsb' 0 24) ∧
    (s.status.busy = true →
      hostAccess (.write (BitVec.ofNat 8 (0x40 + 4 * i.val)) 32 v) s =
        .next { s with status := s.status.raise .busyWrite, resp := some .writeDone })

/-- R26: a write to STATUS changes nothing but DONE and ERR with ERRCODE, by the bits 1 and 2 written, pending or not;
STATUS[3] and STATUS[31:8] read as 0, and the four fields read at their places. The model's own: `resp`, what was driven
on the bus: log entry 2. -/
def Obligations.StatusWriteClearsOnlyDoneAndErr : Prop :=
  ∀ (s : State) (v : Word),
    hostAccess (.write 0x04#8 32 v) s =
      .next { s with
        status := {
          busy := s.status.busy
          done := s.status.done && !v.getLsbD 1
          err := s.status.err && !v.getLsbD 2
          errcode := if v.getLsbD 2 = true then 0#4 else s.status.errcode }
        resp := some .writeDone } ∧
    (regValue s .status).getLsbD 3 = false ∧ (regValue s .status).extractLsb' 8 24 = 0#24 ∧
    (regValue s .status).getLsbD 0 = s.status.busy ∧ (regValue s .status).getLsbD 1 = s.status.done ∧
    (regValue s .status).getLsbD 2 = s.status.err ∧ (regValue s .status).extractLsb' 4 4 = s.status.errcode

/-- R27: a write to CTRL sets IRQEN to bit 0 and nothing else, pending or not, with no error; CTRL[31:1] read as 0;
IRQEN enables the interrupt output; its reset value is 0. The model's own: `resp`, what was driven on the bus: log entry
2. -/
def Obligations.CtrlHoldsOnlyTheInterruptEnable : Prop :=
  (∀ (s : State) (v : Word),
    hostAccess (.write 0x08#8 32 v) s = .next { s with irqen := v.getLsbD 0, resp := some .writeDone } ∧
    regValue s .ctrl = (if s.irqen = true then 0x00000001#32 else 0x00000000#32) ∧
    irq { s with irqen := false } = false ∧
    irq { s with irqen := true } = (s.status.done || s.status.err)) ∧
  regValue State.reset .ctrl = 0x00000000#32

/-- R28: ID reads 0x45544331 in every state, before and after reset; a write to it changes nothing and raises no error.
The model's own: `resp`, what was driven on the bus: log entry 2. -/
def Obligations.IdentIsHardWired : Prop :=
  (∀ s : State, hostAccess (.read 0x0C#8 32) s = .next { s with resp := some (.readData 0x45544331#32) }) ∧
  (∀ (s : State) (v : Word), hostAccess (.write 0x0C#8 32 v) s = .next { s with resp := some .writeDone }) ∧
  (∀ s : State, regValue s.resetAction .ident = regValue s .ident)

/-- R36: the reserved offsets read as 0 and ignore writes, with no error and no other effect. The model's own: `resp`,
what was driven on the bus: log entry 2. -/
def Obligations.ReservedOffsetsReadZeroAndIgnoreWrites : Prop :=
  ∀ (s : State) (off : BitVec 8) (v : Word), off.toNat % 4 = 0 →
    ((0x1C ≤ off.toNat ∧ off.toNat ≤ 0x3C) ∨ 0xC0 ≤ off.toNat) →
    hostAccess (.read off 32) s = .next { s with resp := some (.readData 0x00000000#32) } ∧
    hostAccess (.write off 32 v) s = .next { s with resp := some .writeDone }

/-- Writes to SCORE and PIX_OUT[i] are ignored and raise no error, pending or not (R31, R33, R203). The model's own:
`resp`, what was driven on the bus: log entry 2. -/
def Obligations.ResultRegistersIgnoreWrites : Prop :=
  ∀ (s : State) (v : Word),
    hostAccess (.write 0x18#8 32 v) s = .next { s with resp := some .writeDone } ∧
    ∀ i : Fin 16, hostAccess (.write (BitVec.ofNat 8 (0x80 + 4 * i.val)) 32 v) s =
      .next { s with resp := some .writeDone }

/-- Every write to a register other than CMD is idempotent, in every state (R65; while BUSY = 1 the dropped write
records an error, and repeating it records nothing new, R202). -/
def Obligations.WritesOtherThanCmdAreIdempotent : Prop :=
  ∀ (s : State) (off : BitVec 8) (v : Word), off.toNat % 4 = 0 → off ≠ 0x00#8 →
    ∃ t, hostAccess (.write off 32 v) s = .next t ∧ hostAccess (.write off 32 v) t = .next t

/-! ## HOST reads, and accesses that are not legal -/

/-- R39: while BUSY = 1 a read of BLK_HI, BLK_LO, SCORE or PIX_OUT[i] returns a free value, a fresh one for each read,
and changes no register; every other read, and every read while BUSY = 0, returns the register's value; CMD, and BLK_HI,
BLK_LO and SCORE while BUSY = 0, return what is stored (R21, R29, R30, R31). The model's own: `resp`, what was driven on
the bus: log entry 2; the free value and its counter: log entry 3. -/
def Obligations.ResultReadsAreUnspecifiedWhileBusy : Prop :=
  ∀ (s : State) (r : Reg),
    let result := r = .blkHi ∨ r = .blkLo ∨ r = .score ∨ ∃ i, r = .pixOut i
    (s.status.busy = true → result →
      hostAccess (.read (regOffset r) 32) s =
        .next { s with
          resp := some (.readData (Config.unspecifiedRead s.freeReads))
          freeReads := s.freeReads + 1 }) ∧
    (s.status.busy = false ∨ ¬ result →
      hostAccess (.read (regOffset r) 32) s = .next { s with resp := some (.readData (regValue s r)) }) ∧
    hostAccess (.read 0x00#8 32) s = .next { s with resp := some (.readData s.cmd) } ∧
    (s.status.busy = false →
      hostAccess (.read 0x10#8 32) s = .next { s with resp := some (.readData s.blkHi) } ∧
      hostAccess (.read 0x14#8 32) s = .next { s with resp := some (.readData s.blkLo) } ∧
      hostAccess (.read 0x18#8 32) s = .next { s with resp := some (.readData s.score) })

/-- R61: an access of another width or at an offset that is no multiple of 4 is a fault of the HOST: the bus gets the
error response, a read drives 0, and nothing else changes. The model's own: `resp`, what was driven on the bus: log
entry 2; the fault and its state: log entry 4. -/
def Obligations.IllegalAccessesFaultTheHost : Prop :=
  ∀ (s : State) (off : BitVec 8) (w : Nat) (v : Word), w ≠ 32 ∨ off.toNat % 4 ≠ 0 →
    hostAccess (.read off w) s =
      .fault (.hostBusError (.read off w) { s with resp := some (.readError 0x00000000#32) }) ∧
    hostAccess (.write off w v) s =
      .fault (.hostBusError (.write off w v) { s with resp := some .writeError })

/-- The registers stand at the offsets of R20, and after reset each reads its reset value. -/
def Obligations.WindowIsLaidOutAndReset : Prop :=
  (regAt 0x00#8 = .cmd ∧ regAt 0x04#8 = .status ∧ regAt 0x08#8 = .ctrl ∧ regAt 0x0C#8 = .ident ∧
    regAt 0x10#8 = .blkHi ∧ regAt 0x14#8 = .blkLo ∧ regAt 0x18#8 = .score) ∧
  (∀ i : Fin 16, regAt (BitVec.ofNat 8 (0x40 + 4 * i.val)) = .pixIn i ∧
    regAt (BitVec.ofNat 8 (0x80 + 4 * i.val)) = .pixOut i) ∧
  (∀ off : BitVec 8, regValue State.reset (regAt off) = if off = 0x0C#8 then 0x45544331#32 else 0x00000000#32)

/-- A bus address names an offset of the window exactly when it lies in BASE to BASE + 0x0FF, and the offset is then its
low byte, BASE being a multiple of 0x100 (R66). -/
def Obligations.WindowIsAnAlignedPage : Prop :=
  ∀ (address : Nat) (off : BitVec 8),
    offsetOfAddress address = some off ↔
      address / 0x100 = Config.base / 0x100 ∧ off.toNat = address % 0x100

/-! ## Flags and errors -/

/-- R202: an error sets ERR and ERRCODE only when ERR is 0, and writes nothing else; the codes are those of R201. -/
def Obligations.FirstErrorIsRecorded : Prop :=
  ∀ s : State,
    (∀ e, s.status.err = true → s.raise e = s) ∧
    (s.status.err = false →
      s.raise .badOp = { s with status := { s.status with err := true, errcode := 0x1#4 } } ∧
      s.raise .badField = { s with status := { s.status with err := true, errcode := 0x2#4 } } ∧
      s.raise .busyCmd = { s with status := { s.status with err := true, errcode := 0x3#4 } } ∧
      s.raise .busyWrite = { s with status := { s.status with err := true, errcode := 0x4#4 } })

/-- A recorded error stays, with its code, through every step but a write of STATUS with bit 2 set, the acceptance of a
command, and reset (R24, R25). The model's own: `schedule`, the model's input: log entry 1. -/
def Obligations.RecordedErrorStaysUntilCleared : Prop :=
  ∀ s t : State, step s = .next t → s.status.err = true →
    (t.status.err = true ∧ t.status.errcode = s.status.errcode) ∨
    (∃ v rest, s.schedule = .host (.write 0x04#8 32 v) :: rest ∧ v.getLsbD 2 = true) ∨
    (∃ i rest, s.schedule = .host (.write 0x00#8 32 (encode i)) :: rest ∧ s.status.busy = false ∧
      t.pend = some i) ∨
    (∃ rest, s.schedule = .reset :: rest)

/-- DONE becomes 1 only in a step in which the ENGINE completes the pending command (R23). The model's own: `schedule`,
the model's input: log entry 1. -/
def Obligations.OnlyCompletionSetsDone : Prop :=
  ∀ s t : State, step s = .next t → s.status.done = false → t.status.done = true →
    s.engineNext ∧ s.pend.isSome = true ∧ t.pend = none ∧ t.status.busy = false

/-- The interrupt output: what asserts it and what clears it (R210). -/
def Obligations.InterruptFollowsDoneAndErr : Prop :=
  ∀ s : State,
    (irq s = true ↔ s.irqen = true ∧ (s.status.done = true ∨ s.status.err = true)) ∧
    (∀ i : Instr, ∃ t, exec i s = .next t ∧ irq t = s.irqen) ∧
    (∃ t, hostAccess (.write 0x04#8 32 0x00000006#32) s = .next t ∧ irq t = false) ∧
    (∃ t, hostAccess (.write 0x08#8 32 0x00000000#32) s = .next t ∧ irq t = false) ∧
    (∀ i : Instr, s.status.busy = false → ∃ t, hostAccess (.write 0x00#8 32 (encode i)) s = .next t ∧ irq t = false)

/-! ## The datapath -/

/-- R111 and R112: ext4 repeats the nibble, which is 17 × c; ext5 is the five bits followed by their top three. -/
def Obligations.ExpansionsReplicateBits : Prop :=
  (∀ c : BitVec 4, (ext4 c).toNat = 17 * c.toNat ∧ ext4 c = c ++ c) ∧
  (∀ c : BitVec 5, ext5 c = c ++ c.extractLsb' 2 3)

/-- R113 and R114: the delta is two's complement, and it is applied modulo 32. -/
def Obligations.DeltaIsAppliedModulo32 : Prop :=
  (∀ d : BitVec 3, sdelta d = d.toInt) ∧
  (∀ (b : BitVec 5) (d : BitVec 3), ((applyDelta b d).toNat : Int) = ((b.toNat : Int) + sdelta d) % 32)

/-- R115 and R116: both quantizers round to the nearest level, and no value is half-way. -/
def Obligations.QuantizersRoundToNearest : Prop :=
  ∀ v : Byte,
    quant5 v = BitVec.ofNat 5 (div255 (31 * v.toNat)) ∧ div255 (31 * v.toNat) < 32 ∧
    2 * ((255 * (quant5 v).toNat : Int) - 31 * v.toNat).natAbs < 255 ∧
    quant4 v = BitVec.ofNat 4 (div255 (15 * v.toNat)) ∧ div255 (15 * v.toNat) < 16 ∧
    2 * ((255 * (quant4 v).toNat : Int) - 15 * v.toNat).natAbs < 255

/-- R117 and R118: the modifier table's rows and the mapping of selectors to modifiers. -/
def Obligations.ModifierTableValues : Prop :=
  (List.finRange 8).map (fun t => (List.finRange 4).map fun s => modval (BitVec.ofFin t) (BitVec.ofFin s)) =
    [[2, 8, -2, -8], [5, 17, -5, -17], [9, 29, -9, -29], [13, 42, -13, -42],
     [18, 60, -18, -60], [24, 80, -24, -80], [33, 106, -33, -106], [47, 183, -47, -183]]

/-- R119 and R120: every channel of a reconstructed pixel is the base channel plus the one modifier, clamped to 0 to
255. -/
def Obligations.ReconstructionAddsAndClamps : Prop :=
  ∀ (c : Pixel) (t : BitVec 3) (s : BitVec 2),
    ((recon c t s).r.toNat : Int) = max 0 (min 255 (c.r.toNat + modval t s)) ∧
    ((recon c t s).g.toNat : Int) = max 0 (min 255 (c.g.toNat + modval t s)) ∧
    ((recon c t s).b.toNat : Int) = max 0 (min 255 (c.b.toNat + modval t s))

/-- R122 and R123: the selector positions and the members of the sub-blocks. -/
def Obligations.BlockGeometry : Prop :=
  (List.finRange 16).map selpos = [0, 4, 8, 12, 1, 5, 9, 13, 2, 6, 10, 14, 3, 7, 11, 15] ∧
  members false .one = [0, 1, 4, 5, 8, 9, 12, 13] ∧ members false .two = [2, 3, 6, 7, 10, 11, 14, 15] ∧
  members true .one = [0, 1, 2, 3, 4, 5, 6, 7] ∧ members true .two = [8, 9, 10, 11, 12, 13, 14, 15]

/-- R128: what a decoded pixel depends on: (a) hi and its two selector bits; (b) FLIP changes the base and table used,
not the selector; (c) with lo = 0 the modifier is +a of the sub-block's table; (d) with every delta 0 both base colors
are equal. -/
def Obligations.DecodedPixelDependencies : Prop :=
  (∀ (hi lo lo' : Word) (i : Fin 16), lo.getLsbD (selpos i) = lo'.getLsbD (selpos i) →
    lo.getLsbD (16 + selpos i) = lo'.getLsbD (16 + selpos i) → (decodeRecord hi lo)[i] = (decodeRecord hi lo')[i]) ∧
  (∀ (hi lo : Word) (i : Fin 16), (decodeRecord (hi ^^^ 0x00000001#32) lo)[i] =
    recon (baseColor hi (subblock i (!recFlip hi))) (recTable hi (subblock i (!recFlip hi))) (recSelector lo i)) ∧
  (∀ (hi : Word) (i : Fin 16), (decodeRecord hi 0x00000000#32)[i] =
    (baseColor hi (subblock i (recFlip hi))).map fun ch =>
      clamp8 (ch.toNat + (modifierRow (recTable hi (subblock i (recFlip hi)))).1)) ∧
  (∀ hi : Word, recDiff hi = true → recDelta hi = { r := 0#3, g := 0#3, b := 0#3 } →
    baseColor hi .one = baseColor hi .two)

/-- R124 to R127 for every record: which fields of hi the base colors and tables are read from in each mode, a delta
that leaves 0 to 31 wrapping as applyDelta does, and which base, table and selector each pixel uses. -/
def Obligations.DecodeReadsTheRecordFields : Prop :=
  ∀ hi : Word,
    baseColor hi .one =
      (if hi.getLsbD 1 = true then
        { r := ext5 (hi.extractLsb' 27 5), g := ext5 (hi.extractLsb' 19 5), b := ext5 (hi.extractLsb' 11 5) }
      else
        { r := ext4 (hi.extractLsb' 28 4), g := ext4 (hi.extractLsb' 20 4), b := ext4 (hi.extractLsb' 12 4) }) ∧
    baseColor hi .two =
      (if hi.getLsbD 1 = true then
        { r := ext5 (applyDelta (hi.extractLsb' 27 5) (hi.extractLsb' 24 3))
          g := ext5 (applyDelta (hi.extractLsb' 19 5) (hi.extractLsb' 16 3))
          b := ext5 (applyDelta (hi.extractLsb' 11 5) (hi.extractLsb' 8 3)) }
      else
        { r := ext4 (hi.extractLsb' 24 4), g := ext4 (hi.extractLsb' 16 4), b := ext4 (hi.extractLsb' 8 4) }) ∧
    recTable hi .one = hi.extractLsb' 5 3 ∧ recTable hi .two = hi.extractLsb' 2 3 ∧
    ∀ (lo : Word) (i : Fin 16),
      let j := subblock i (hi.getLsbD 0)
      (decodeRecord hi lo)[i] = recon (baseColor hi j) (recTable hi j)
        (BitVec.ofBool (lo.getLsbD (16 + selpos i)) ++ BitVec.ofBool (lo.getLsbD (selpos i)))

/-- R129: the error measure, its bound, the block score as the sum over the 16 pixels, and its bound. -/
def Obligations.ErrorMeasureAndItsBounds : Prop :=
  (∀ p q : Pixel, (err p q : Int) = 3 * ((p.r.toNat : Int) - q.r.toNat) ^ 2 + 6 * ((p.g.toNat : Int) - q.g.toNat) ^ 2
    + ((p.b.toNat : Int) - q.b.toNat) ^ 2) ∧
  (∀ p q : Pixel, err p q ≤ 650250) ∧
  (∀ P Q : Block, blockScore P Q = ∑ i : Fin 16, err P[i] Q[i]) ∧
  (∀ P Q : Block, blockScore P Q ≤ 10404000)

/-! ## The encoder -/

/-- R143: each channel of a sub-block's average is the mean of its 8 pixels rounded half up, with no overflow of the 8
bits. -/
def Obligations.AveragesAreRoundedMeans : Prop :=
  ∀ (P : Block) (flip : Bool) (j : SubBlock),
    (avg P flip j).r.toNat = (((members flip j).map fun i => P[i].r.toNat).sum + 4) / 8 ∧
    (avg P flip j).g.toNat = (((members flip j).map fun i => P[i].g.toNat).sum + 4) / 8 ∧
    (avg P flip j).b.toNat = (((members flip j).map fun i => P[i].b.toNat).sum + 4) / 8

/-- R144 to R146 and R151 in their own words: when the differential candidate exists, the base colors of both
candidates, the word hi of a candidate as the OR of its shifted fields, and the record and score of a candidate, its
tables being the best tables and its selectors the best selectors of its base colors. -/
def Obligations.CandidateHighWordIsItsShiftedFields : Prop :=
  ∀ (P : Block) (flip : Bool),
    let q1 := quantized5 P flip .one
    let q2 := quantized5 P flip .two
    let n1 := quantized4 P flip .one
    let n2 := quantized4 P flip .two
    (q1 = (avg P flip .one).map quant5 ∧ q2 = (avg P flip .two).map quant5 ∧
      n1 = (avg P flip .one).map quant4 ∧ n2 = (avg P flip .two).map quant4) ∧
    (representable P flip = true ↔
      (-4 ≤ (q2.r.toNat : Int) - q1.r.toNat ∧ (q2.r.toNat : Int) - q1.r.toNat ≤ 3) ∧
      (-4 ≤ (q2.g.toNat : Int) - q1.g.toNat ∧ (q2.g.toNat : Int) - q1.g.toNat ≤ 3) ∧
      (-4 ≤ (q2.b.toNat : Int) - q1.b.toNat ∧ (q2.b.toNat : Int) - q1.b.toNat ≤ 3)) ∧
    ((colors P flip .differential).base .one = q1.map ext5 ∧ (colors P flip .differential).base .two = q2.map ext5 ∧
      (colors P flip .individual).base .one = n1.map ext4 ∧ (colors P flip .individual).base .two = n2.map ext4) ∧
    (∀ t1 t2 : BitVec 3,
      packHi (colors P flip .differential).bits t1 t2 (colors P flip .differential).diff flip =
        (q1.r.setWidth 32 <<< 27) ||| ((deltaField q1.r q2.r).setWidth 32 <<< 24) |||
        (q1.g.setWidth 32 <<< 19) ||| ((deltaField q1.g q2.g).setWidth 32 <<< 16) |||
        (q1.b.setWidth 32 <<< 11) ||| ((deltaField q1.b q2.b).setWidth 32 <<< 8) |||
        (t1.setWidth 32 <<< 5) ||| (t2.setWidth 32 <<< 2) ||| (1#32 <<< 1) ||| (BitVec.ofBool flip).setWidth 32 ∧
      packHi (colors P flip .individual).bits t1 t2 (colors P flip .individual).diff flip =
        (n1.r.setWidth 32 <<< 28) ||| (n2.r.setWidth 32 <<< 24) |||
        (n1.g.setWidth 32 <<< 20) ||| (n2.g.setWidth 32 <<< 16) |||
        (n1.b.setWidth 32 <<< 12) ||| (n2.b.setWidth 32 <<< 8) |||
        (t1.setWidth 32 <<< 5) ||| (t2.setWidth 32 <<< 2) ||| (BitVec.ofBool flip).setWidth 32) ∧
    (∀ m : Mode,
      let c := colors P flip m
      let T := fun j => bestTable P flip j (c.base j)
      let k := candidateOf P flip c
      k.hi = packHi c.bits (T .one) (T .two) c.diff flip ∧
      k.score = tableErr P flip .one (c.base .one) (T .one) + tableErr P flip .two (c.base .two) (T .two) ∧
      ∀ i : Fin 16,
        let s := bestSel P[i] (c.base (subblock i flip)) (T (subblock i flip))
        k.lo.getLsbD (16 + selpos i) = s.getLsbD 1 ∧ k.lo.getLsbD (selpos i) = s.getLsbD 0)

/-- What the encoder packs into a record is what the decoder reads from it: base colors, tables, DIFF and FLIP of every
candidate that exists (R91 to R93, R145, R146, R151). -/
def Obligations.PackedColorsAreReadBack : Prop :=
  ∀ (P : Block) (flip : Bool) (m : Mode) (t1 t2 : BitVec 3),
    (m = .differential → representable P flip = true) →
    let hi := packHi (colors P flip m).bits t1 t2 (colors P flip m).diff flip
    (∀ j, baseColor hi j = (colors P flip m).base j) ∧
    recTable hi .one = t1 ∧ recTable hi .two = t2 ∧
    recDiff hi = (colors P flip m).diff ∧ recFlip hi = flip

/-- The 16 selectors and the word lo determine each other: no selector bit is dropped and no bit of lo is spare; bit 16
+ k of lo is the most significant bit of a selector and bit k the least significant, when read and when packed (R94,
R95, R151). -/
def Obligations.SelectorsRoundTrip : Prop :=
  (∀ (s : Fin 16 → BitVec 2) (i : Fin 16), recSelector (packSelectors s) i = s i) ∧
  (∀ lo : Word, packSelectors (recSelector lo) = lo) ∧
  (∀ (lo : Word) (i : Fin 16), (recSelector lo i).getLsbD 1 = lo.getLsbD (16 + selpos i) ∧
    (recSelector lo i).getLsbD 0 = lo.getLsbD (selpos i)) ∧
  (∀ (s : Fin 16 → BitVec 2) (i : Fin 16), (packSelectors s).getLsbD (16 + selpos i) = (s i).getLsbD 1 ∧
    (packSelectors s).getLsbD (selpos i) = (s i).getLsbD 0)

/-- R149, and R150 for the table: the best selector is the smallest of those with the least error, bestErr is that
error, and the best table of a sub-block is the smallest of those with the least summed error. -/
def Obligations.BestSelectorAndTableAreTheFirstLeast : Prop :=
  (∀ (p c : Pixel) (t : BitVec 3),
    (∀ s, err p (recon c t (bestSel p c t)) ≤ err p (recon c t s)) ∧
    (∀ s, s.toNat < (bestSel p c t).toNat → err p (recon c t (bestSel p c t)) < err p (recon c t s)) ∧
    bestErr p c t = err p (recon c t (bestSel p c t))) ∧
  (∀ (P : Block) (flip : Bool) (j : SubBlock) (c : Pixel),
    (∀ t, tableErr P flip j c (bestTable P flip j c) ≤ tableErr P flip j c t) ∧
    (∀ t, t.toNat < (bestTable P flip j c).toNat →
      tableErr P flip j c (bestTable P flip j c) < tableErr P flip j c t))

/-- The number of candidates of each ENC variant (R148). -/
def Obligations.CandidateCounts : Prop :=
  ∀ P : Block,
    2 ≤ (candidates P .auto .best).length ∧ (candidates P .auto .best).length ≤ 4 ∧
    (candidates P .auto .ind).length = 2 ∧ (candidates P .auto .dpref).length = 2 ∧
    ∀ fs, fs ≠ .auto →
      1 ≤ (candidates P fs .best).length ∧ (candidates P fs .best).length ≤ 2 ∧
      (candidates P fs .ind).length = 1 ∧ (candidates P fs .dpref).length = 1

/-- R152: the candidate kept has the least score, and is the first visited of those that have it. -/
def Obligations.EncoderKeepsTheFirstLeastCandidate : Prop :=
  ∀ (P : Block) (fs : FSel) (cs : CSel), ∃ before after : List Candidate,
    candidates P fs cs = before ++ encodeBlock P fs cs :: after ∧
    (∀ c ∈ before, (encodeBlock P fs cs).score < c.score) ∧
    (∀ c ∈ after, (encodeBlock P fs cs).score ≤ c.score)

/-- R153: the FLIP bit of the result is the flip of the candidate kept; it is 0 under LR, 1 under TB, and under AUTO it
is 1 exactly when the least score over the top/bottom candidates is strictly less than over the left/right ones. -/
def Obligations.FlipBitIsTheWinningPartition : Prop :=
  ∀ (P : Block) (cs : CSel),
    (∀ fs, ∃ f ∈ flips fs, ∃ m ∈ modes P cs f, encodeBlock P fs cs = candidateOf P f (colors P f m) ∧
      recFlip (encodeBlock P fs cs).hi = f) ∧
    recFlip (encodeBlock P .lr cs).hi = false ∧ recFlip (encodeBlock P .tb cs).hi = true ∧
    (recFlip (encodeBlock P .auto cs).hi = true ↔
      ∃ c ∈ candidates P .tb cs, ∀ d ∈ candidates P .lr cs, c.score < d.score)

/-- The DIFF bit of the result, by color-mode search: always 0 under IND; under DPREF 1 exactly when the winning flip's
differential candidate exists; under BEST 1 exactly when it exists and scores at most the individual candidate of that
flip, differential being visited first (R147, R148, R152, R163 to R165). -/
def Obligations.DiffBitFollowsTheColorModeSearch : Prop :=
  ∀ (P : Block) (fs : FSel),
    recDiff (encodeBlock P fs .ind).hi = false ∧
    recDiff (encodeBlock P fs .dpref).hi = representable P (recFlip (encodeBlock P fs .dpref).hi) ∧
    (let f := recFlip (encodeBlock P fs .best).hi
     recDiff (encodeBlock P fs .best).hi = true ↔
       representable P f = true ∧
       (candidateOf P f (colors P f .differential)).score ≤ (candidateOf P f (colors P f .individual)).score)

/-- R155: the wider search is never worse, and without a differential candidate the three color-mode searches give the
same record. -/
def Obligations.WiderSearchIsNeverWorse : Prop :=
  ∀ P : Block,
    (∀ cs, (encodeBlock P .auto cs).score ≤ (encodeBlock P .lr cs).score ∧
      (encodeBlock P .auto cs).score ≤ (encodeBlock P .tb cs).score) ∧
    (∀ fs, (encodeBlock P fs .best).score ≤ (encodeBlock P fs .dpref).score ∧
      (encodeBlock P fs .best).score ≤ (encodeBlock P fs .ind).score) ∧
    (∀ fs, (∀ f ∈ flips fs, representable P f = false) →
      encodeBlock P fs .best = encodeBlock P fs .ind ∧ encodeBlock P fs .dpref = encodeBlock P fs .ind)

/-- A solid block: its averages are its color, its differential candidate exists under both flips, and AUTO answers FLIP
= 0 (R157 (a)). -/
def Obligations.SolidBlocksKeepLeftRight : Prop :=
  ∀ (p : Pixel) (cs : CSel),
    let P : Block := Vector.replicate 16 p
    (∀ flip j, avg P flip j = p) ∧ (∀ flip, representable P flip = true) ∧
    recFlip (encodeBlock P .auto cs).hi = false

/-- No record beats the encoder: the score of an ENC is at most the score of every record, over all tables and
selectors, whose partition and base colors are those of a visited candidate (R150, R152). -/
def Obligations.EncoderIsOptimalForItsColors : Prop :=
  ∀ (P : Block) (fs : FSel) (cs : CSel) (f : Bool) (m : Mode) (hi lo : Word),
    f ∈ flips fs → m ∈ modes P cs f → recFlip hi = f → (∀ j, baseColor hi j = (colors P f m).base j) →
    (encodeBlock P fs cs).score ≤ blockScore P (decodeRecord hi lo)

/-! ## The commands -/

/-- DEC completes in every state, so for all 2^64 records: PIX_OUT is the decoding of the record, BUSY 0, DONE 1, PEND
none, and nothing else changes (R183, and R181, R34, R40). -/
def Obligations.DecWritesTheDecodedBlock : Prop :=
  ∀ s : State, exec .dec s =
    .next { s with
      pixOut := decodeRecord s.blkHi s.blkLo
      pend := none
      status := { s.status with busy := false, done := true } }

/-- EVAL completes in every state: PIX_OUT is the decoding of the record, SCORE its score against PIX_IN, BUSY 0, DONE
1, PEND none, and nothing else changes (R184, R34, R40). -/
def Obligations.EvalWritesTheBlockAndItsScore : Prop :=
  ∀ s : State, exec .eval s =
    .next { s with
      pixOut := decodeRecord s.blkHi s.blkLo
      score := BitVec.ofNat 32 (blockScore s.pixIn (decodeRecord s.blkHi s.blkLo))
      pend := none
      status := { s.status with busy := false, done := true } }

/-- Each of the nine ENC variants completes in every state: BLK_HI, BLK_LO and SCORE are the result of EncodeBlock with
the variant's flips and modes, PIX_OUT the decoding of the new record, BUSY 0, DONE 1, PEND none, and nothing else
changes (R140, R141, R160 to R168, R34, R40). -/
def Obligations.EncVariantsWriteTheEncodedBlock : Prop :=
  ∀ (s : State) (i : Instr) (fs : FSel) (cs : CSel),
    (i, fs, cs) ∈ [(Instr.encAutoBest, FSel.auto, CSel.best), (.encLrBest, .lr, .best), (.encTbBest, .tb, .best),
      (.encAutoInd, .auto, .ind), (.encLrInd, .lr, .ind), (.encTbInd, .tb, .ind),
      (.encAutoDpref, .auto, .dpref), (.encLrDpref, .lr, .dpref), (.encTbDpref, .tb, .dpref)] →
    exec i s =
      .next { s with
        blkHi := (encodeBlock s.pixIn fs cs).hi
        blkLo := (encodeBlock s.pixIn fs cs).lo
        score := BitVec.ofNat 32 (encodeBlock s.pixIn fs cs).score
        pixOut := decodeRecord (encodeBlock s.pixIn fs cs).hi (encodeBlock s.pixIn fs cs).lo
        pend := none
        status := { s.status with busy := false, done := true } }

/-- R180: after every command each PIX_OUT[i] reads as the three channels of pixel i of the decoding of the record then
in BLK_HI and BLK_LO, bits 31:24 zero. -/
def Obligations.EveryCommandWritesOutTheRecord : Prop :=
  ∀ (i : Instr) (s : State), ∃ t, exec i s = .next t ∧ ∀ k : Fin 16,
    regValue t (.pixOut k) =
      ((decodePixel t.blkHi t.blkLo k).r.setWidth 32 <<< 16) |||
      ((decodePixel t.blkHi t.blkLo k).g.setWidth 32 <<< 8) ||| (decodePixel t.blkHi t.blkLo k).b.setWidth 32

/-- A command's results depend on its operand registers alone: PIX_IN for ENC, BLK_HI and BLK_LO for DEC, all three for
EVAL (R140, R141, R181, R184, C6). -/
def Obligations.ResultsDependOnOperandsOnly : Prop :=
  ∀ s s' : State,
    (∀ fs cs, s.pixIn = s'.pixIn → ∃ t t', exec (Instr.enc fs cs) s = .next t ∧ exec (Instr.enc fs cs) s' = .next t' ∧
      t.blkHi = t'.blkHi ∧ t.blkLo = t'.blkLo ∧ t.score = t'.score ∧ t.pixOut = t'.pixOut) ∧
    (s.blkHi = s'.blkHi → s.blkLo = s'.blkLo → ∃ t t', exec .dec s = .next t ∧ exec .dec s' = .next t' ∧
      t.pixOut = t'.pixOut) ∧
    (s.blkHi = s'.blkHi → s.blkLo = s'.blkLo → s.pixIn = s'.pixIn → ∃ t t', exec .eval s = .next t ∧
      exec .eval s' = .next t' ∧ t.score = t'.score ∧ t.pixOut = t'.pixOut)

/-- R154: after an ENC, SCORE is the score of PIX_IN against PIX_OUT; an EVAL issued afterwards, with PIX_IN and the
record unchanged, leaves SCORE and PIX_OUT as they were. -/
def Obligations.EncScoreIsItsReconstructionError : Prop :=
  ∀ (fs : FSel) (cs : CSel) (s : State), ∃ t, exec (Instr.enc fs cs) s = .next t ∧
    t.score.toNat = blockScore s.pixIn t.pixOut ∧
    ∀ u : State, u.pixIn = t.pixIn → u.blkHi = t.blkHi → u.blkLo = t.blkLo →
      ∃ w, exec .eval u = .next w ∧ w.score = t.score ∧ w.pixOut = t.pixOut

/-- EVAL answers SCORE = 0 exactly when every PIX_IN[i] equals PIX_OUT[i] (R185 (a)). -/
def Obligations.EvalScoresZeroExactlyOnAMatch : Prop :=
  ∀ s : State, ∃ t, exec .eval s = .next t ∧
    (t.score = 0x00000000#32 ↔ ∀ i : Fin 16, s.pixIn[i] = t.pixOut[i])

/-! ## Steps and runs -/

/-- A step performs the next action, at the state in which the action has left the schedule and nothing is driven on the
bus: the ENGINE's turn runs the pending command, or does nothing when none is pending (R34, R232); a HOST access is
performed (R60, R68). The model's own: `resp`, what was driven on the bus: log entry 2; `schedule`, the model's input:
log entry 1. -/
def Obligations.StepPerformsTheNextAction : Prop :=
  ∀ s : State,
    (s.engineNext → ∀ i, s.pend = some i → step s = exec i { s with schedule := s.schedule.tail, resp := none }) ∧
    (s.engineNext → s.pend = none → step s = .next { s with schedule := s.schedule.tail, resp := none }) ∧
    (∀ a rest, s.schedule = .host a :: rest → step s = hostAccess a { s with schedule := rest, resp := none })

/-- A command word written to CMD while idle is decoded and runs at the ENGINE's next turn; a word placed where the step
fetches runs in that very step (R21, R34, R87). The model's own: `resp`, what was driven on the bus: log entry 2;
`schedule`, the model's input: log entry 1; `withFetchWord`: log entry 7. -/
def Obligations.WrittenCommandRunsAtTheEnginesTurn : Prop :=
  ∀ (s : State) (v : Word) (i : Instr), decode v = .command i →
    (∀ rest, s.status.busy = false → s.schedule = .host (.write 0x00#8 32 v) :: .engine :: rest →
      ∃ t, step s = .next t ∧
        step t = exec i { s with
          cmd := v
          pend := some i
          status := { busy := true, done := false, err := false, errcode := 0#4 }
          schedule := rest
          resp := none }) ∧
    step (s.withFetchWord 32 v.toNat) = exec i { s with
      cmd := v
      pend := some i
      status := { busy := true, done := false, err := false, errcode := 0#4 }
      resp := none }

/-- R230 and R231: reset sets every register and PEND to its reset value, whatever was pending, and deasserts irq; the
reset state is that state. The model's own: `schedule`, the model's input: log entry 1. -/
def Obligations.ResetClearsEveryRegister : Prop :=
  (∀ (s : State) (rest : List Action), s.schedule = .reset :: rest → ∃ t, step s = .next t ∧
    t.cmd = 0#32 ∧ t.status = { busy := false, done := false, err := false, errcode := 0#4 } ∧ t.irqen = false ∧
    t.blkHi = 0#32 ∧ t.blkLo = 0#32 ∧ t.score = 0#32 ∧
    (∀ i : Fin 16, regValue t (.pixIn i) = 0#32 ∧ regValue t (.pixOut i) = 0#32) ∧
    t.pend = none ∧ irq t = false ∧ regValue t .ident = 0x45544331#32 ∧ t.schedule = rest) ∧
  State.reset.resetAction = State.reset

/-- The legal states: reset is one (R20, R230). -/
def Obligations.ResetStateIsLegal : Prop :=
  State.reset.Inv

/-- Every step keeps the legal states: BUSY = 1 exactly when a command is pending, DONE = 1 only with BUSY = 0, ERR and
ERRCODE 0 together, ERRCODE at most 4, SCORE at most 10,404,000, CMD the pending command's word; also in the state a
HOST's bus error leaves (R22, R23, R25, R31, R34). The model's own: the fault and its state: log entry 4. -/
def Obligations.StepsKeepTheStateLegal : Prop :=
  ∀ s : State, s.Inv →
    (∀ t, step s = .next t → t.Inv) ∧ (∀ a t, step s = .fault (.hostBusError a t) → t.Inv)

/-- A machine whose HOST makes only legal accesses never stops: every number of steps ends in a next state (R60, R183,
R200, R203). The model's own: `schedule`, the model's input: log entry 1. -/
def Obligations.LegalRunsNeverStop : Prop :=
  ∀ (n : Nat) (s : State), s.legalSchedule = true →
    ∃ t : State, Sys2Proof.core.run n s = .next t ∧ t.legalSchedule = true

/-- No legal HOST access disables or disturbs a pending command: whatever legal accesses the HOST makes while the
command is pending, at its ENGINE step it completes, and BLK_HI, BLK_LO, SCORE and PIX_OUT are what they would have been
had it completed at once (R34, R35, D10). The model's own: `schedule`, the model's input: log entry 1. -/
def Obligations.PendingCommandIsUndisturbed : Prop :=
  ∀ (s : State) (i : Instr) (accesses : List Access),
    s.pend = some i → s.status.busy = true → s.schedule = accesses.map Action.host →
    (∀ a ∈ accesses, a.wellFormed = true) →
    ∃ t u : State, Sys2Proof.core.run (accesses.length + 1) s = .next t ∧ exec i s = .next u ∧
      t.blkHi = u.blkHi ∧ t.blkLo = u.blkLo ∧ t.score = u.score ∧ t.pixOut = u.pixOut ∧
      t.pixIn = s.pixIn ∧ t.cmd = s.cmd ∧ t.pend = none ∧ t.status.busy = false ∧ t.status.done = true

/-! ## The host syntax and the byte order of a record -/

/-- The lines of a host program and the pseudo-instructions expand to the accesses of R98 and R99, the words of ENC and
LDPIX being those of the commands and of the pixel registers; WAIT expands to the HOST's loop on STATUS, and a program's
lines follow each other. The number of polls before the ENGINE's turn in a WAIT, on which no other expansion depends, is
the model's own: log entry 14. -/
def Obligations.PseudoInstructionsExpand : Prop :=
  ∀ polls : Nat,
    Pseudo.dec.expand polls = [.host (.write 0x00#8 32 0x00000001#32)] ∧
    Pseudo.eval.expand polls = [.host (.write 0x00#8 32 0x00000003#32)] ∧
    Pseudo.encDefault.expand polls = [.host (.write 0x00#8 32 0x00000002#32)] ∧
    (∀ f c, (Pseudo.enc f c).expand polls = [.host (.write 0x00#8 32 (encode (Instr.enc f c)))]) ∧
    Pseudo.ack.expand polls = [.host (.write 0x04#8 32 0x00000006#32)] ∧
    (∀ hi lo, (Pseudo.ldblk hi lo).expand polls = [.host (.write 0x10#8 32 hi), .host (.write 0x14#8 32 lo)]) ∧
    (∀ (i : Fin 16) (r g b : Byte), (Pseudo.ldpix i r g b).expand polls =
      [.host (.write (BitVec.ofNat 8 (0x40 + 4 * i.val)) 32 (pixelWord { r := r, g := g, b := b }))]) ∧
    (∀ r g b, (Pseudo.fill r g b).expand polls =
      (List.finRange 16).flatMap fun i => (Pseudo.ldpix i r g b).expand polls) ∧
    Pseudo.wait.expand polls = [.wait polls] ∧
    (∀ r v, (Line.write r v).expand polls = [.host (.write (regOffset r) 32 v)]) ∧
    (∀ r, (Line.read r).expand polls = [.host (.read (regOffset r) 32)]) ∧
    (∀ off v, (Line.writeAt off v).expand polls = [.host (.write off 32 v)]) ∧
    (∀ off, (Line.readAt off).expand polls = [.host (.read off 32)]) ∧
    (∀ p, (Line.pseudo p).expand polls = p.expand polls) ∧
    hostProgram polls [] = [] ∧
    (∀ l p, hostProgram polls (l :: p) = l.expand polls ++ hostProgram polls p)

/-- WAIT repeats a read of STATUS until the value read has DONE or ERR set (R99): each poll reads STATUS and changes no
register, and the HOST goes on exactly when the value ends the WAIT. It terminates while a command is pending, and from
a legal state with no error it ends with that command complete (R35, R69); after a rejected command it ends at its first
poll, since ERR = 1. A single read of STATUS after the ENGINE's step, or after a rejected command, ends it likewise.
Where the ENGINE's turn falls among the polls: log entry 14. The model's own: `resp`, what was driven on the bus: log
entry 2; `schedule`, the model's input: log entry 1. -/
def Obligations.WaitEndsAfterCompletionOrRejection : Prop :=
  (∀ (s : State) (polls : Nat) (rest : List Action), s.schedule = .wait polls :: rest →
    ((regValue s .status).getLsbD 1 = true ∨ (regValue s .status).getLsbD 2 = true →
      step s = .next { s with schedule := rest, resp := some (.readData (regValue s .status)) }) ∧
    ((regValue s .status).getLsbD 1 = false → (regValue s .status).getLsbD 2 = false →
      step s = .next { s with
        schedule := (if polls = 0 then [.engine, .wait 0] else [.wait (polls - 1)]) ++ rest
        resp := some (.readData (regValue s .status)) })) ∧
  (∀ (s : State) (i : Instr) (polls : Nat) (rest : List Action), s.pend = some i →
    s.schedule = .wait polls :: rest →
    ∃ (n : Nat) (t : State) (v : Word), n ≤ polls + 3 ∧ Sys2Proof.core.run n s = .next t ∧ t.schedule = rest ∧
      t.resp = some (.readData v) ∧ waitEnds v = true ∧
      (s.Inv → s.status.err = false → t.pend = none ∧ t.status.done = true)) ∧
  (∀ (s : State) (v : Word) (e : ErrorCause) (polls : Nat) (rest : List Action), decode v = .rejected e →
    s.schedule = .host (wr .cmd v) :: .wait polls :: rest →
    ∃ t u w, step s = .next t ∧ step t = .next u ∧ u.schedule = rest ∧ u.resp = some (.readData w) ∧
      waitEnds w = true) ∧
  (∀ (s : State) (i : Instr) (rest : List Action), s.pend = some i →
    s.schedule = .engine :: .host (rd .status) :: rest →
    ∃ t u v, step s = .next t ∧ step t = .next u ∧ u.resp = some (.readData v) ∧ waitEnds v = true) ∧
  (∀ (s : State) (v : Word) (e : ErrorCause) (rest : List Action), decode v = .rejected e →
    s.schedule = .host (wr .cmd v) :: .host (rd .status) :: rest →
    ∃ t u w, step s = .next t ∧ step t = .next u ∧ u.resp = some (.readData w) ∧ waitEnds w = true)

/-- The eight bytes of a record and its two words determine each other, byte 0 being BLK_HI[31:24] and byte 4
BLK_LO[31:24] (R29, R30, R63, R90). -/
def Obligations.RecordBytesAreBigEndianWords : Prop :=
  (∀ hi lo : Word, recordOfBytes (bytesOfRecord hi lo) = (hi, lo)) ∧
  (∀ b : Vector Byte 8, bytesOfRecord (recordOfBytes b).1 (recordOfBytes b).2 = b) ∧
  (∀ b : Vector Byte 8, (recordOfBytes b).1.extractLsb' 24 8 = b[0] ∧ (recordOfBytes b).2.extractLsb' 24 8 = b[4])
end

