-- ==== Sys2Proof/Laws/State.lean ====
section
/-! SUPPORT. One lemma per field of State per update, each true by rfl. -/

namespace Sys2Proof.Machine

@[simp] theorem State.raise_cmd (e : ErrorCause) (s : State) : (s.raise e).cmd = s.cmd := rfl
@[simp] theorem State.raise_status (e : ErrorCause) (s : State) : (s.raise e).status = s.status.raise e := rfl
@[simp] theorem State.raise_irqen (e : ErrorCause) (s : State) : (s.raise e).irqen = s.irqen := rfl
@[simp] theorem State.raise_blkHi (e : ErrorCause) (s : State) : (s.raise e).blkHi = s.blkHi := rfl
@[simp] theorem State.raise_blkLo (e : ErrorCause) (s : State) : (s.raise e).blkLo = s.blkLo := rfl
@[simp] theorem State.raise_score (e : ErrorCause) (s : State) : (s.raise e).score = s.score := rfl
@[simp] theorem State.raise_pixIn (e : ErrorCause) (s : State) : (s.raise e).pixIn = s.pixIn := rfl
@[simp] theorem State.raise_pixOut (e : ErrorCause) (s : State) : (s.raise e).pixOut = s.pixOut := rfl
@[simp] theorem State.raise_pend (e : ErrorCause) (s : State) : (s.raise e).pend = s.pend := rfl
@[simp] theorem State.raise_schedule (e : ErrorCause) (s : State) : (s.raise e).schedule = s.schedule := rfl
@[simp] theorem State.raise_resp (e : ErrorCause) (s : State) : (s.raise e).resp = s.resp := rfl
@[simp] theorem State.raise_freeReads (e : ErrorCause) (s : State) : (s.raise e).freeReads = s.freeReads := rfl

@[simp] theorem State.clearStatus_cmd (v : Word) (s : State) : (s.clearStatus v).cmd = s.cmd := rfl
@[simp] theorem State.clearStatus_status (v : Word) (s : State) : (s.clearStatus v).status = s.status.writeOneToClear v := rfl
@[simp] theorem State.clearStatus_irqen (v : Word) (s : State) : (s.clearStatus v).irqen = s.irqen := rfl
@[simp] theorem State.clearStatus_blkHi (v : Word) (s : State) : (s.clearStatus v).blkHi = s.blkHi := rfl
@[simp] theorem State.clearStatus_blkLo (v : Word) (s : State) : (s.clearStatus v).blkLo = s.blkLo := rfl
@[simp] theorem State.clearStatus_score (v : Word) (s : State) : (s.clearStatus v).score = s.score := rfl
@[simp] theorem State.clearStatus_pixIn (v : Word) (s : State) : (s.clearStatus v).pixIn = s.pixIn := rfl
@[simp] theorem State.clearStatus_pixOut (v : Word) (s : State) : (s.clearStatus v).pixOut = s.pixOut := rfl
@[simp] theorem State.clearStatus_pend (v : Word) (s : State) : (s.clearStatus v).pend = s.pend := rfl
@[simp] theorem State.clearStatus_schedule (v : Word) (s : State) : (s.clearStatus v).schedule = s.schedule := rfl
@[simp] theorem State.clearStatus_resp (v : Word) (s : State) : (s.clearStatus v).resp = s.resp := rfl
@[simp] theorem State.clearStatus_freeReads (v : Word) (s : State) : (s.clearStatus v).freeReads = s.freeReads := rfl

@[simp] theorem State.setCmd_cmd (v : Word) (s : State) : (s.setCmd v).cmd = v := rfl
@[simp] theorem State.setCmd_status (v : Word) (s : State) : (s.setCmd v).status = s.status := rfl
@[simp] theorem State.setCmd_irqen (v : Word) (s : State) : (s.setCmd v).irqen = s.irqen := rfl
@[simp] theorem State.setCmd_blkHi (v : Word) (s : State) : (s.setCmd v).blkHi = s.blkHi := rfl
@[simp] theorem State.setCmd_blkLo (v : Word) (s : State) : (s.setCmd v).blkLo = s.blkLo := rfl
@[simp] theorem State.setCmd_score (v : Word) (s : State) : (s.setCmd v).score = s.score := rfl
@[simp] theorem State.setCmd_pixIn (v : Word) (s : State) : (s.setCmd v).pixIn = s.pixIn := rfl
@[simp] theorem State.setCmd_pixOut (v : Word) (s : State) : (s.setCmd v).pixOut = s.pixOut := rfl
@[simp] theorem State.setCmd_pend (v : Word) (s : State) : (s.setCmd v).pend = s.pend := rfl
@[simp] theorem State.setCmd_schedule (v : Word) (s : State) : (s.setCmd v).schedule = s.schedule := rfl
@[simp] theorem State.setCmd_resp (v : Word) (s : State) : (s.setCmd v).resp = s.resp := rfl
@[simp] theorem State.setCmd_freeReads (v : Word) (s : State) : (s.setCmd v).freeReads = s.freeReads := rfl

@[simp] theorem State.setCtrl_cmd (v : Word) (s : State) : (s.setCtrl v).cmd = s.cmd := rfl
@[simp] theorem State.setCtrl_status (v : Word) (s : State) : (s.setCtrl v).status = s.status := rfl
@[simp] theorem State.setCtrl_irqen (v : Word) (s : State) : (s.setCtrl v).irqen = v.getLsbD 0 := rfl
@[simp] theorem State.setCtrl_blkHi (v : Word) (s : State) : (s.setCtrl v).blkHi = s.blkHi := rfl
@[simp] theorem State.setCtrl_blkLo (v : Word) (s : State) : (s.setCtrl v).blkLo = s.blkLo := rfl
@[simp] theorem State.setCtrl_score (v : Word) (s : State) : (s.setCtrl v).score = s.score := rfl
@[simp] theorem State.setCtrl_pixIn (v : Word) (s : State) : (s.setCtrl v).pixIn = s.pixIn := rfl
@[simp] theorem State.setCtrl_pixOut (v : Word) (s : State) : (s.setCtrl v).pixOut = s.pixOut := rfl
@[simp] theorem State.setCtrl_pend (v : Word) (s : State) : (s.setCtrl v).pend = s.pend := rfl
@[simp] theorem State.setCtrl_schedule (v : Word) (s : State) : (s.setCtrl v).schedule = s.schedule := rfl
@[simp] theorem State.setCtrl_resp (v : Word) (s : State) : (s.setCtrl v).resp = s.resp := rfl
@[simp] theorem State.setCtrl_freeReads (v : Word) (s : State) : (s.setCtrl v).freeReads = s.freeReads := rfl

@[simp] theorem State.setBlkHi_cmd (v : Word) (s : State) : (s.setBlkHi v).cmd = s.cmd := rfl
@[simp] theorem State.setBlkHi_status (v : Word) (s : State) : (s.setBlkHi v).status = s.status := rfl
@[simp] theorem State.setBlkHi_irqen (v : Word) (s : State) : (s.setBlkHi v).irqen = s.irqen := rfl
@[simp] theorem State.setBlkHi_blkHi (v : Word) (s : State) : (s.setBlkHi v).blkHi = v := rfl
@[simp] theorem State.setBlkHi_blkLo (v : Word) (s : State) : (s.setBlkHi v).blkLo = s.blkLo := rfl
@[simp] theorem State.setBlkHi_score (v : Word) (s : State) : (s.setBlkHi v).score = s.score := rfl
@[simp] theorem State.setBlkHi_pixIn (v : Word) (s : State) : (s.setBlkHi v).pixIn = s.pixIn := rfl
@[simp] theorem State.setBlkHi_pixOut (v : Word) (s : State) : (s.setBlkHi v).pixOut = s.pixOut := rfl
@[simp] theorem State.setBlkHi_pend (v : Word) (s : State) : (s.setBlkHi v).pend = s.pend := rfl
@[simp] theorem State.setBlkHi_schedule (v : Word) (s : State) : (s.setBlkHi v).schedule = s.schedule := rfl
@[simp] theorem State.setBlkHi_resp (v : Word) (s : State) : (s.setBlkHi v).resp = s.resp := rfl
@[simp] theorem State.setBlkHi_freeReads (v : Word) (s : State) : (s.setBlkHi v).freeReads = s.freeReads := rfl

@[simp] theorem State.setBlkLo_cmd (v : Word) (s : State) : (s.setBlkLo v).cmd = s.cmd := rfl
@[simp] theorem State.setBlkLo_status (v : Word) (s : State) : (s.setBlkLo v).status = s.status := rfl
@[simp] theorem State.setBlkLo_irqen (v : Word) (s : State) : (s.setBlkLo v).irqen = s.irqen := rfl
@[simp] theorem State.setBlkLo_blkHi (v : Word) (s : State) : (s.setBlkLo v).blkHi = s.blkHi := rfl
@[simp] theorem State.setBlkLo_blkLo (v : Word) (s : State) : (s.setBlkLo v).blkLo = v := rfl
@[simp] theorem State.setBlkLo_score (v : Word) (s : State) : (s.setBlkLo v).score = s.score := rfl
@[simp] theorem State.setBlkLo_pixIn (v : Word) (s : State) : (s.setBlkLo v).pixIn = s.pixIn := rfl
@[simp] theorem State.setBlkLo_pixOut (v : Word) (s : State) : (s.setBlkLo v).pixOut = s.pixOut := rfl
@[simp] theorem State.setBlkLo_pend (v : Word) (s : State) : (s.setBlkLo v).pend = s.pend := rfl
@[simp] theorem State.setBlkLo_schedule (v : Word) (s : State) : (s.setBlkLo v).schedule = s.schedule := rfl
@[simp] theorem State.setBlkLo_resp (v : Word) (s : State) : (s.setBlkLo v).resp = s.resp := rfl
@[simp] theorem State.setBlkLo_freeReads (v : Word) (s : State) : (s.setBlkLo v).freeReads = s.freeReads := rfl

@[simp] theorem State.setPixIn_cmd (i : Fin 16) (v : Word) (s : State) : (s.setPixIn i v).cmd = s.cmd := rfl
@[simp] theorem State.setPixIn_status (i : Fin 16) (v : Word) (s : State) : (s.setPixIn i v).status = s.status := rfl
@[simp] theorem State.setPixIn_irqen (i : Fin 16) (v : Word) (s : State) : (s.setPixIn i v).irqen = s.irqen := rfl
@[simp] theorem State.setPixIn_blkHi (i : Fin 16) (v : Word) (s : State) : (s.setPixIn i v).blkHi = s.blkHi := rfl
@[simp] theorem State.setPixIn_blkLo (i : Fin 16) (v : Word) (s : State) : (s.setPixIn i v).blkLo = s.blkLo := rfl
@[simp] theorem State.setPixIn_score (i : Fin 16) (v : Word) (s : State) : (s.setPixIn i v).score = s.score := rfl
@[simp] theorem State.setPixIn_pixIn (i : Fin 16) (v : Word) (s : State) : (s.setPixIn i v).pixIn = s.pixIn.set i.val (pixelOfWord v) i.isLt := rfl
@[simp] theorem State.setPixIn_pixOut (i : Fin 16) (v : Word) (s : State) : (s.setPixIn i v).pixOut = s.pixOut := rfl
@[simp] theorem State.setPixIn_pend (i : Fin 16) (v : Word) (s : State) : (s.setPixIn i v).pend = s.pend := rfl
@[simp] theorem State.setPixIn_schedule (i : Fin 16) (v : Word) (s : State) : (s.setPixIn i v).schedule = s.schedule := rfl
@[simp] theorem State.setPixIn_resp (i : Fin 16) (v : Word) (s : State) : (s.setPixIn i v).resp = s.resp := rfl
@[simp] theorem State.setPixIn_freeReads (i : Fin 16) (v : Word) (s : State) : (s.setPixIn i v).freeReads = s.freeReads := rfl

@[simp] theorem State.accept_cmd (i : Instr) (s : State) : (s.accept i).cmd = s.cmd := rfl
@[simp] theorem State.accept_status (i : Instr) (s : State) : (s.accept i).status = s.status.accept := rfl
@[simp] theorem State.accept_irqen (i : Instr) (s : State) : (s.accept i).irqen = s.irqen := rfl
@[simp] theorem State.accept_blkHi (i : Instr) (s : State) : (s.accept i).blkHi = s.blkHi := rfl
@[simp] theorem State.accept_blkLo (i : Instr) (s : State) : (s.accept i).blkLo = s.blkLo := rfl
@[simp] theorem State.accept_score (i : Instr) (s : State) : (s.accept i).score = s.score := rfl
@[simp] theorem State.accept_pixIn (i : Instr) (s : State) : (s.accept i).pixIn = s.pixIn := rfl
@[simp] theorem State.accept_pixOut (i : Instr) (s : State) : (s.accept i).pixOut = s.pixOut := rfl
@[simp] theorem State.accept_pend (i : Instr) (s : State) : (s.accept i).pend = some i := rfl
@[simp] theorem State.accept_schedule (i : Instr) (s : State) : (s.accept i).schedule = s.schedule := rfl
@[simp] theorem State.accept_resp (i : Instr) (s : State) : (s.accept i).resp = s.resp := rfl
@[simp] theorem State.accept_freeReads (i : Instr) (s : State) : (s.accept i).freeReads = s.freeReads := rfl

@[simp] theorem State.complete_cmd (s : State) : (s.complete).cmd = s.cmd := rfl
@[simp] theorem State.complete_status (s : State) : (s.complete).status = s.status.complete := rfl
@[simp] theorem State.complete_irqen (s : State) : (s.complete).irqen = s.irqen := rfl
@[simp] theorem State.complete_blkHi (s : State) : (s.complete).blkHi = s.blkHi := rfl
@[simp] theorem State.complete_blkLo (s : State) : (s.complete).blkLo = s.blkLo := rfl
@[simp] theorem State.complete_score (s : State) : (s.complete).score = s.score := rfl
@[simp] theorem State.complete_pixIn (s : State) : (s.complete).pixIn = s.pixIn := rfl
@[simp] theorem State.complete_pixOut (s : State) : (s.complete).pixOut = s.pixOut := rfl
@[simp] theorem State.complete_pend (s : State) : (s.complete).pend = none := rfl
@[simp] theorem State.complete_schedule (s : State) : (s.complete).schedule = s.schedule := rfl
@[simp] theorem State.complete_resp (s : State) : (s.complete).resp = s.resp := rfl
@[simp] theorem State.complete_freeReads (s : State) : (s.complete).freeReads = s.freeReads := rfl

@[simp] theorem State.writeOut_cmd (hi lo : Word) (s : State) : (s.writeOut hi lo).cmd = s.cmd := rfl
@[simp] theorem State.writeOut_status (hi lo : Word) (s : State) : (s.writeOut hi lo).status = s.status := rfl
@[simp] theorem State.writeOut_irqen (hi lo : Word) (s : State) : (s.writeOut hi lo).irqen = s.irqen := rfl
@[simp] theorem State.writeOut_blkHi (hi lo : Word) (s : State) : (s.writeOut hi lo).blkHi = s.blkHi := rfl
@[simp] theorem State.writeOut_blkLo (hi lo : Word) (s : State) : (s.writeOut hi lo).blkLo = s.blkLo := rfl
@[simp] theorem State.writeOut_score (hi lo : Word) (s : State) : (s.writeOut hi lo).score = s.score := rfl
@[simp] theorem State.writeOut_pixIn (hi lo : Word) (s : State) : (s.writeOut hi lo).pixIn = s.pixIn := rfl
@[simp] theorem State.writeOut_pixOut (hi lo : Word) (s : State) : (s.writeOut hi lo).pixOut = decodeRecord hi lo := rfl
@[simp] theorem State.writeOut_pend (hi lo : Word) (s : State) : (s.writeOut hi lo).pend = s.pend := rfl
@[simp] theorem State.writeOut_schedule (hi lo : Word) (s : State) : (s.writeOut hi lo).schedule = s.schedule := rfl
@[simp] theorem State.writeOut_resp (hi lo : Word) (s : State) : (s.writeOut hi lo).resp = s.resp := rfl
@[simp] theorem State.writeOut_freeReads (hi lo : Word) (s : State) : (s.writeOut hi lo).freeReads = s.freeReads := rfl

@[simp] theorem State.setScore_cmd (n : Nat) (s : State) : (s.setScore n).cmd = s.cmd := rfl
@[simp] theorem State.setScore_status (n : Nat) (s : State) : (s.setScore n).status = s.status := rfl
@[simp] theorem State.setScore_irqen (n : Nat) (s : State) : (s.setScore n).irqen = s.irqen := rfl
@[simp] theorem State.setScore_blkHi (n : Nat) (s : State) : (s.setScore n).blkHi = s.blkHi := rfl
@[simp] theorem State.setScore_blkLo (n : Nat) (s : State) : (s.setScore n).blkLo = s.blkLo := rfl
@[simp] theorem State.setScore_score (n : Nat) (s : State) : (s.setScore n).score = BitVec.ofNat 32 n := rfl
@[simp] theorem State.setScore_pixIn (n : Nat) (s : State) : (s.setScore n).pixIn = s.pixIn := rfl
@[simp] theorem State.setScore_pixOut (n : Nat) (s : State) : (s.setScore n).pixOut = s.pixOut := rfl
@[simp] theorem State.setScore_pend (n : Nat) (s : State) : (s.setScore n).pend = s.pend := rfl
@[simp] theorem State.setScore_schedule (n : Nat) (s : State) : (s.setScore n).schedule = s.schedule := rfl
@[simp] theorem State.setScore_resp (n : Nat) (s : State) : (s.setScore n).resp = s.resp := rfl
@[simp] theorem State.setScore_freeReads (n : Nat) (s : State) : (s.setScore n).freeReads = s.freeReads := rfl

@[simp] theorem State.drawFree_cmd (s : State) : (s.drawFree).cmd = s.cmd := rfl
@[simp] theorem State.drawFree_status (s : State) : (s.drawFree).status = s.status := rfl
@[simp] theorem State.drawFree_irqen (s : State) : (s.drawFree).irqen = s.irqen := rfl
@[simp] theorem State.drawFree_blkHi (s : State) : (s.drawFree).blkHi = s.blkHi := rfl
@[simp] theorem State.drawFree_blkLo (s : State) : (s.drawFree).blkLo = s.blkLo := rfl
@[simp] theorem State.drawFree_score (s : State) : (s.drawFree).score = s.score := rfl
@[simp] theorem State.drawFree_pixIn (s : State) : (s.drawFree).pixIn = s.pixIn := rfl
@[simp] theorem State.drawFree_pixOut (s : State) : (s.drawFree).pixOut = s.pixOut := rfl
@[simp] theorem State.drawFree_pend (s : State) : (s.drawFree).pend = s.pend := rfl
@[simp] theorem State.drawFree_schedule (s : State) : (s.drawFree).schedule = s.schedule := rfl
@[simp] theorem State.drawFree_resp (s : State) : (s.drawFree).resp = s.resp := rfl
@[simp] theorem State.drawFree_freeReads (s : State) : (s.drawFree).freeReads = s.freeReads + 1 := rfl

@[simp] theorem State.keepWaiting_cmd (polls : Nat) (s : State) : (s.keepWaiting polls).cmd = s.cmd := rfl
@[simp] theorem State.keepWaiting_status (polls : Nat) (s : State) : (s.keepWaiting polls).status = s.status := rfl
@[simp] theorem State.keepWaiting_irqen (polls : Nat) (s : State) : (s.keepWaiting polls).irqen = s.irqen := rfl
@[simp] theorem State.keepWaiting_blkHi (polls : Nat) (s : State) : (s.keepWaiting polls).blkHi = s.blkHi := rfl
@[simp] theorem State.keepWaiting_blkLo (polls : Nat) (s : State) : (s.keepWaiting polls).blkLo = s.blkLo := rfl
@[simp] theorem State.keepWaiting_score (polls : Nat) (s : State) : (s.keepWaiting polls).score = s.score := rfl
@[simp] theorem State.keepWaiting_pixIn (polls : Nat) (s : State) : (s.keepWaiting polls).pixIn = s.pixIn := rfl
@[simp] theorem State.keepWaiting_pixOut (polls : Nat) (s : State) : (s.keepWaiting polls).pixOut = s.pixOut := rfl
@[simp] theorem State.keepWaiting_pend (polls : Nat) (s : State) : (s.keepWaiting polls).pend = s.pend := rfl
@[simp] theorem State.keepWaiting_schedule (polls : Nat) (s : State) :
    (s.keepWaiting polls).schedule = afterPoll polls ++ s.schedule := rfl
@[simp] theorem State.keepWaiting_resp (polls : Nat) (s : State) : (s.keepWaiting polls).resp = s.resp := rfl
@[simp] theorem State.keepWaiting_freeReads (polls : Nat) (s : State) : (s.keepWaiting polls).freeReads = s.freeReads := rfl

@[simp] theorem State.respond_cmd (r : Response) (s : State) : (s.respond r).cmd = s.cmd := rfl
@[simp] theorem State.respond_status (r : Response) (s : State) : (s.respond r).status = s.status := rfl
@[simp] theorem State.respond_irqen (r : Response) (s : State) : (s.respond r).irqen = s.irqen := rfl
@[simp] theorem State.respond_blkHi (r : Response) (s : State) : (s.respond r).blkHi = s.blkHi := rfl
@[simp] theorem State.respond_blkLo (r : Response) (s : State) : (s.respond r).blkLo = s.blkLo := rfl
@[simp] theorem State.respond_score (r : Response) (s : State) : (s.respond r).score = s.score := rfl
@[simp] theorem State.respond_pixIn (r : Response) (s : State) : (s.respond r).pixIn = s.pixIn := rfl
@[simp] theorem State.respond_pixOut (r : Response) (s : State) : (s.respond r).pixOut = s.pixOut := rfl
@[simp] theorem State.respond_pend (r : Response) (s : State) : (s.respond r).pend = s.pend := rfl
@[simp] theorem State.respond_schedule (r : Response) (s : State) : (s.respond r).schedule = s.schedule := rfl
@[simp] theorem State.respond_resp (r : Response) (s : State) : (s.respond r).resp = some r := rfl
@[simp] theorem State.respond_freeReads (r : Response) (s : State) : (s.respond r).freeReads = s.freeReads := rfl

@[simp] theorem State.beginStep_cmd (s : State) : (s.beginStep).cmd = s.cmd := rfl
@[simp] theorem State.beginStep_status (s : State) : (s.beginStep).status = s.status := rfl
@[simp] theorem State.beginStep_irqen (s : State) : (s.beginStep).irqen = s.irqen := rfl
@[simp] theorem State.beginStep_blkHi (s : State) : (s.beginStep).blkHi = s.blkHi := rfl
@[simp] theorem State.beginStep_blkLo (s : State) : (s.beginStep).blkLo = s.blkLo := rfl
@[simp] theorem State.beginStep_score (s : State) : (s.beginStep).score = s.score := rfl
@[simp] theorem State.beginStep_pixIn (s : State) : (s.beginStep).pixIn = s.pixIn := rfl
@[simp] theorem State.beginStep_pixOut (s : State) : (s.beginStep).pixOut = s.pixOut := rfl
@[simp] theorem State.beginStep_pend (s : State) : (s.beginStep).pend = s.pend := rfl
@[simp] theorem State.beginStep_schedule (s : State) : (s.beginStep).schedule = s.schedule.tail := rfl
@[simp] theorem State.beginStep_resp (s : State) : (s.beginStep).resp = none := rfl
@[simp] theorem State.beginStep_freeReads (s : State) : (s.beginStep).freeReads = s.freeReads := rfl

@[simp] theorem State.resetAction_cmd (s : State) : s.resetAction.cmd = State.reset.cmd := rfl
@[simp] theorem State.resetAction_status (s : State) : s.resetAction.status = State.reset.status := rfl
@[simp] theorem State.resetAction_irqen (s : State) : s.resetAction.irqen = State.reset.irqen := rfl
@[simp] theorem State.resetAction_blkHi (s : State) : s.resetAction.blkHi = State.reset.blkHi := rfl
@[simp] theorem State.resetAction_blkLo (s : State) : s.resetAction.blkLo = State.reset.blkLo := rfl
@[simp] theorem State.resetAction_score (s : State) : s.resetAction.score = State.reset.score := rfl
@[simp] theorem State.resetAction_pixIn (s : State) : s.resetAction.pixIn = State.reset.pixIn := rfl
@[simp] theorem State.resetAction_pixOut (s : State) : s.resetAction.pixOut = State.reset.pixOut := rfl
@[simp] theorem State.resetAction_pend (s : State) : s.resetAction.pend = State.reset.pend := rfl
@[simp] theorem State.resetAction_schedule (s : State) : s.resetAction.schedule = s.schedule := rfl
@[simp] theorem State.resetAction_resp (s : State) : s.resetAction.resp = State.reset.resp := rfl
@[simp] theorem State.resetAction_freeReads (s : State) : s.resetAction.freeReads = s.freeReads := rfl

end Sys2Proof.Machine
end

