-- ==== Sys2Proof/Laws/Datapath.lean ====
section
/-! SUPPORT. What the functions of the datapath and the encoder give, said once: least elements, best selectors, the two
halves of a block. -/

namespace Sys2Proof.Machine

section Argmin

variable {α : Type} (f : α → Nat)

/-- The element chosen is one of those compared. -/
theorem argminFrom_mem (a : α) (l : List α) : argminFrom f a l ∈ a :: l := by
  induction l generalizing a with
  | nil => simp [argminFrom]
  | cons x xs ih =>
    unfold argminFrom
    split
    · exact List.mem_cons_of_mem _ (ih x)
    · have := ih a
      simp only [List.mem_cons] at this ⊢
      tauto

/-- No element compared is less than the element chosen. -/
theorem argminFrom_le (a : α) (l : List α) : ∀ x ∈ a :: l, f (argminFrom f a l) ≤ f x := by
  induction l generalizing a with
  | nil => simp [argminFrom]
  | cons y ys ih =>
    intro x hx
    unfold argminFrom
    split
    · next h =>
      rcases List.mem_cons.1 hx with rfl | hx
      · exact (ih y y (by simp)).trans h.le
      · exact ih y x hx
    · next h =>
      rcases List.mem_cons.1 hx with rfl | hx
      · exact ih x x (by simp)
      · rcases List.mem_cons.1 hx with rfl | hx
        · exact (ih a a (by simp)).trans (not_lt.1 h)
        · exact ih a x (List.mem_cons_of_mem _ hx)

end Argmin

/-- Every selector is one of the four compared. -/
theorem selector_mem (s : BitVec 2) : s ∈ [0#2, 1#2, 2#2, 3#2] := by
  revert s; decide

/-- Every table index is one of the eight compared. -/
theorem table_mem (t : BitVec 3) : t ∈ [0#3, 1#3, 2#3, 3#3, 4#3, 5#3, 6#3, 7#3] := by
  revert t; decide

/-- The least error is at most that of any selector. -/
theorem bestErr_le (p c : Pixel) (t : BitVec 3) (s : BitVec 2) : bestErr p c t ≤ err p (recon c t s) := by
  have h := selector_mem s
  simp only [List.mem_cons, List.not_mem_nil, or_false] at h
  unfold bestErr
  rcases h with rfl | rfl | rfl | rfl <;> omega

/-- The best table's error is at most that of any table. -/
theorem tableErr_bestTable_le (P : Block) (flip : Bool) (j : SubBlock) (c : Pixel) (t : BitVec 3) :
    tableErr P flip j c (bestTable P flip j c) ≤ tableErr P flip j c t :=
  argminFrom_le _ _ _ t (table_mem t)

/-- A sum over the 16 pixels is the sum over the members of the two sub-blocks. -/
theorem sum_members (flip : Bool) (g : Fin 16 → Nat) :
    ((List.finRange 16).map g).sum = ((members flip .one).map g).sum + ((members flip .two).map g).sum := by
  have h1 : members true .one = [0, 1, 2, 3, 4, 5, 6, 7] := by decide
  have h2 : members true .two = [8, 9, 10, 11, 12, 13, 14, 15] := by decide
  have h3 : members false .one = [0, 1, 4, 5, 8, 9, 12, 13] := by decide
  have h4 : members false .two = [2, 3, 6, 7, 10, 11, 14, 15] := by decide
  have h5 : List.finRange 16 = [0, 1, 2, 3, 4, 5, 6, 7, 8, 9, 10, 11, 12, 13, 14, 15] := by decide
  cases flip <;> simp only [h1, h2, h3, h4, h5, List.map_cons, List.map_nil, List.sum_cons, List.sum_nil] <;> ring

/-- A pixel belongs to a sub-block exactly when it is one of its members. -/
theorem mem_members (flip : Bool) (j : SubBlock) (i : Fin 16) : i ∈ members flip j ↔ subblock i flip = j := by
  simp [members]

/-- Pixel n of a decoded record. -/
@[simp] theorem decodeRecord_getElem (hi lo : Word) (n : Nat) (h : n < 16) :
    (decodeRecord hi lo)[n] = decodePixel hi lo ⟨n, h⟩ := by
  simp [decodeRecord]

/-- There is always a candidate (R148). -/
theorem candidates_ne_nil (P : Block) (fs : FSel) (cs : CSel) : candidates P fs cs ≠ [] := by
  cases fs <;> cases cs <;> simp [candidates, flips, modes] <;> split <;> simp

/-- EncodeBlock answers one of its candidates. -/
theorem encodeBlock_mem (P : Block) (fs : FSel) (cs : CSel) : encodeBlock P fs cs ∈ candidates P fs cs := by
  unfold encodeBlock keepLeast
  split
  · next h => exact absurd h (candidates_ne_nil P fs cs)
  · next c l h => rw [h]; exact argminFrom_mem _ c l

/-- No candidate has a lesser score than the one EncodeBlock answers. -/
theorem encodeBlock_le (P : Block) (fs : FSel) (cs : CSel) :
    ∀ c ∈ candidates P fs cs, (encodeBlock P fs cs).score ≤ c.score := by
  unfold encodeBlock keepLeast
  split
  · next h => exact absurd h (candidates_ne_nil P fs cs)
  · next c l h => rw [h]; exact argminFrom_le _ c l

/-- A candidate is that of a visited flip and a visited mode. -/
theorem mem_candidates (P : Block) (fs : FSel) (cs : CSel) (c : Candidate) :
    c ∈ candidates P fs cs ↔ ∃ f ∈ flips fs, ∃ m ∈ modes P cs f, candidateOf P f (colors P f m) = c := by
  simp [candidates]

end Sys2Proof.Machine
end

