-- ==== Sys2Proof/Laws/Ops.lean ====
section
/-! SUPPORT. What each shared operation can do, said once: a flag computation, a HOST access, a command's ENGINE step,
a step of the machine.  Later proofs cite these and do not unfold the operations. -/

namespace Sys2Proof.Machine

/-! The flags -/

@[simp] theorem Status.raise_busy (e : ErrorCause) (st : Status) : (st.raise e).busy = st.busy := by
  unfold Status.raise; split <;> rfl

@[simp] theorem Status.raise_done (e : ErrorCause) (st : Status) : (st.raise e).done = st.done := by
  unfold Status.raise; split <;> rfl

@[simp] theorem Status.raise_err (e : ErrorCause) (st : Status) : (st.raise e).err = true := by
  unfold Status.raise; split
  · assumption
  · rfl

/-- The first error's code is kept, else the new one recorded. -/
theorem Status.raise_errcode (e : ErrorCause) (st : Status) :
    (st.raise e).errcode = if st.err then st.errcode else errorCode e := by
  unfold Status.raise; split <;> rfl

@[simp] theorem Status.accept_busy (st : Status) : st.accept.busy = true := rfl
@[simp] theorem Status.accept_done (st : Status) : st.accept.done = false := rfl
@[simp] theorem Status.accept_err (st : Status) : st.accept.err = false := rfl
@[simp] theorem Status.accept_errcode (st : Status) : st.accept.errcode = 0#4 := rfl
@[simp] theorem Status.complete_busy (st : Status) : st.complete.busy = false := rfl
@[simp] theorem Status.complete_done (st : Status) : st.complete.done = true := rfl
@[simp] theorem Status.complete_err (st : Status) : st.complete.err = st.err := rfl
@[simp] theorem Status.complete_errcode (st : Status) : st.complete.errcode = st.errcode := rfl
@[simp] theorem Status.writeOneToClear_busy (v : Word) (st : Status) : (st.writeOneToClear v).busy = st.busy := rfl

/-! The window -/

/-- Every offset a register of rule R20 has is read back as that register. -/
theorem regAt_regOffset (r : Reg) (h : r ≠ .reserved) : regAt (regOffset r) = r := by
  cases r with
  | pixIn i => revert i; decide
  | pixOut i => revert i; decide
  | reserved => exact absurd rfl h
  | _ => rfl

/-- Every register's offset is legal for a 32-bit access. -/
theorem regOffset_aligned (r : Reg) : (regOffset r).toNat % 4 = 0 := by
  cases r with
  | pixIn i => revert i; decide
  | pixOut i => revert i; decide
  | _ => rfl

/-- Every register's offset reads back as it, the first reserved offset as reserved. -/
@[simp] theorem regAt_offset (r : Reg) : regAt (regOffset r) = r := by
  by_cases h : r = .reserved
  · subst h; rfl
  · exact regAt_regOffset r h

/-- A 32-bit access at a register's offset is legal. -/
@[simp] theorem wellFormed_read (r : Reg) : (Access.read (regOffset r) 32).wellFormed = true := by
  simp [Access.wellFormed, Access.width, Access.offset, regOffset_aligned]

/-- A 32-bit access at a register's offset is legal. -/
@[simp] theorem wellFormed_write (r : Reg) (v : Word) : (Access.write (regOffset r) 32 v).wellFormed = true := by
  simp [Access.wellFormed, Access.width, Access.offset, regOffset_aligned]

/-- A 32-bit read at a register's offset reads it. -/
@[simp] theorem hostAccess_read (r : Reg) (s : State) :
    hostAccess (.read (regOffset r) 32) s = .next (readReg r s) := by
  simp [hostAccess]

/-- A 32-bit write at a register's offset writes it. -/
@[simp] theorem hostAccess_write (r : Reg) (v : Word) (s : State) :
    hostAccess (.write (regOffset r) 32 v) s = .next (writeReg r v s) := by
  simp [hostAccess]

/-- A legal read changes the response, and the model's counter when the value is free. -/
theorem readReg_cases (r : Reg) (s : State) :
    (s.status.busy = true ∧ isResult r = true ∧
      readReg r s = (s.respond (.readData (Config.unspecifiedRead s.freeReads))).drawFree) ∨
    ((s.status.busy && isResult r) = false ∧ readReg r s = s.respond (.readData (regValue s r))) := by
  unfold readReg
  split
  · next h => exact .inl ⟨by simp_all, by simp_all, rfl⟩
  · next h => exact .inr ⟨by simpa using h, rfl⟩

/-- A HOST write to CMD is dropped, accepted or rejected. -/
theorem writeCmd_cases (v : Word) (s : State) :
    (s.status.busy = true ∧ writeCmd v s = s.raise .busyCmd) ∨
    (s.status.busy = false ∧ ∃ i, decode v = .command i ∧ writeCmd v s = (s.setCmd v).accept i) ∨
    (s.status.busy = false ∧ ∃ e, decode v = .rejected e ∧ writeCmd v s = (s.setCmd v).raise e) := by
  unfold writeCmd
  split
  · next h => exact .inl ⟨h, rfl⟩
  · next h =>
    have h' : s.status.busy = false := by simpa using h
    split
    · next i hi => exact .inr (.inl ⟨h', i, hi, rfl⟩)
    · next e he => exact .inr (.inr ⟨h', e, he, rfl⟩)

/-- A HOST write to an operand register is dropped or stored. -/
theorem writeOperand_cases (store : State → State) (s : State) :
    (s.status.busy = true ∧ writeOperand store s = s.raise .busyWrite) ∨
    (s.status.busy = false ∧ writeOperand store s = store s) := by
  unfold writeOperand
  split
  · next h => exact .inl ⟨h, rfl⟩
  · next h => exact .inr ⟨by simpa using h, rfl⟩

/-- Every effect a legal HOST write can have. -/
theorem writeEffect_cases (r : Reg) (v : Word) (s : State) :
    (r = .cmd ∧ writeEffect r v s = writeCmd v s) ∨
    (r = .status ∧ writeEffect r v s = s.clearStatus v) ∨
    (r = .ctrl ∧ writeEffect r v s = s.setCtrl v) ∨
    (r = .blkHi ∧ writeEffect r v s = writeOperand (State.setBlkHi v) s) ∨
    (r = .blkLo ∧ writeEffect r v s = writeOperand (State.setBlkLo v) s) ∨
    (∃ i, r = .pixIn i ∧ writeEffect r v s = writeOperand (State.setPixIn i v) s) ∨
    writeEffect r v s = s := by
  cases r <;> simp [writeEffect]

/-- Every outcome of a HOST access: a legal read, a legal write, or the HOST's bus error. -/
theorem hostAccess_cases (a : Access) (s : State) :
    (∃ off w, a = .read off w ∧ a.wellFormed = true ∧ hostAccess a s = .next (readReg (regAt off) s)) ∨
    (∃ off w v, a = .write off w v ∧ a.wellFormed = true ∧ hostAccess a s = .next (writeReg (regAt off) v s)) ∨
    (a.wellFormed = false ∧ hostAccess a s = .fault (.hostBusError a (s.respond (errorResponse a)))) := by
  unfold hostAccess
  split
  · next h =>
    cases a with
    | read off w => exact .inl ⟨off, w, rfl, h, rfl⟩
    | write off w v => exact .inr (.inl ⟨off, w, v, rfl, h, rfl⟩)
  · next h => exact .inr (.inr ⟨by simpa using h, rfl⟩)

/-! The commands -/

/-- What DEC does. -/
theorem exec_dec (s : State) : exec .dec s = .next (s.writeOut s.blkHi s.blkLo).complete := rfl

/-- What EVAL does. -/
theorem exec_eval (s : State) : exec .eval s =
    .next ((s.writeOut s.blkHi s.blkLo).setScore (blockScore s.pixIn (decodeRecord s.blkHi s.blkLo))).complete := rfl

/-- What each of the nine ENC variants does. -/
theorem exec_enc (fs : FSel) (cs : CSel) (s : State) : exec (Instr.enc fs cs) s =
    .next ((((s.setBlkHi (encodeBlock s.pixIn fs cs).hi).setBlkLo (encodeBlock s.pixIn fs cs).lo).setScore
      (encodeBlock s.pixIn fs cs).score).writeOut (encodeBlock s.pixIn fs cs).hi
        (encodeBlock s.pixIn fs cs).lo).complete := by
  cases fs <;> cases cs <;> rfl

/-- Every command is DEC, EVAL or an ENC variant. -/
theorem instr_cases (i : Instr) : i = .dec ∨ i = .eval ∨ ∃ fs cs, i = Instr.enc fs cs := by
  cases i with
  | dec => exact .inl rfl
  | eval => exact .inr (.inl rfl)
  | encAutoBest => exact .inr (.inr ⟨.auto, .best, rfl⟩)
  | encLrBest => exact .inr (.inr ⟨.lr, .best, rfl⟩)
  | encTbBest => exact .inr (.inr ⟨.tb, .best, rfl⟩)
  | encAutoInd => exact .inr (.inr ⟨.auto, .ind, rfl⟩)
  | encLrInd => exact .inr (.inr ⟨.lr, .ind, rfl⟩)
  | encTbInd => exact .inr (.inr ⟨.tb, .ind, rfl⟩)
  | encAutoDpref => exact .inr (.inr ⟨.auto, .dpref, rfl⟩)
  | encLrDpref => exact .inr (.inr ⟨.lr, .dpref, rfl⟩)
  | encTbDpref => exact .inr (.inr ⟨.tb, .dpref, rfl⟩)

/-- What every command does, whatever it is: it completes, and writes no field but the results, PEND, BUSY and DONE. -/
theorem exec_completes (i : Instr) (s : State) :
    ∃ t, exec i s = .next t ∧ t.status = s.status.complete ∧ t.pend = none ∧ t.cmd = s.cmd ∧ t.irqen = s.irqen ∧
      t.pixIn = s.pixIn ∧ t.schedule = s.schedule ∧ t.resp = s.resp ∧ t.freeReads = s.freeReads := by
  rcases instr_cases i with rfl | rfl | ⟨fs, cs, rfl⟩
  · exact ⟨_, exec_dec s, by simp⟩
  · exact ⟨_, exec_eval s, by simp⟩
  · exact ⟨_, exec_enc fs cs s, by simp⟩

/-- A HOST write takes nothing from the schedule and adds nothing to it. -/
theorem writeEffect_schedule (r : Reg) (v : Word) (s : State) : (writeEffect r v s).schedule = s.schedule := by
  rcases writeEffect_cases r v s with ⟨_, e⟩ | ⟨_, e⟩ | ⟨_, e⟩ | ⟨_, e⟩ | ⟨_, e⟩ | ⟨i, _, e⟩ | e <;> rw [e]
  · rcases writeCmd_cases v s with ⟨_, e⟩ | ⟨_, i, _, e⟩ | ⟨_, i, _, e⟩ <;> rw [e] <;> rfl
  · rfl
  · rfl
  all_goals
    unfold writeOperand
    split <;> rfl

/-- A poll of WAIT drives STATUS on the bus and changes no register; the HOST stays in WAIT exactly when the value read
has neither DONE nor ERR set. -/
theorem waitPoll_cases (polls : Nat) (s : State) :
    (waitEnds s.status.word = true ∧ waitPoll polls s = s.respond (.readData s.status.word)) ∨
    (waitEnds s.status.word = false ∧
      waitPoll polls s = (s.respond (.readData s.status.word)).keepWaiting polls) := by
  unfold waitPoll readReg
  simp only [isResult, Bool.and_false, Bool.false_eq_true, if_false, regValue]
  split
  · next h => exact .inl ⟨h, rfl⟩
  · next h => exact .inr ⟨by simpa using h, rfl⟩

/-- The value of STATUS ends WAIT exactly when DONE or ERR is 1. -/
theorem waitEnds_status (st : Status) : waitEnds st.word = (st.done || st.err) := by
  obtain ⟨busy, done, err, code⟩ := st
  revert busy done err code
  decide

/-! A step -/

/-- A machine whose next step answers `t` runs on from `t`. -/
theorem run_succ (M : Host.Core) (n : Nat) (s t : M.State) (h : M.step s = .next t) : M.run (n + 1) s = M.run n t := by
  simp [Host.Core.run, h]

/-- Every outcome of a step: an idle turn, the pending command's step, a HOST access, a poll of WAIT, or
reset. -/
theorem step_cases (s : State) :
    (nextAction s = .engine ∧ s.pend = none ∧ step s = .next s.beginStep) ∨
    (∃ i, nextAction s = .engine ∧ s.pend = some i ∧ step s = exec i s.beginStep) ∨
    (∃ a rest, s.schedule = .host a :: rest ∧ step s = hostAccess a s.beginStep) ∨
    (∃ polls rest, s.schedule = .wait polls :: rest ∧ step s = .next (waitPoll polls s.beginStep)) ∨
    (∃ rest, s.schedule = .reset :: rest ∧ step s = .next s.beginStep.resetAction) := by
  unfold step nextAction
  rcases h : s.schedule with _ | ⟨_ | _ | _ | _, rest⟩
  · rcases hp : s.pend with _ | i
    · exact .inl ⟨rfl, rfl, by simp [engineTurn, fetch, hp]⟩
    · exact .inr (.inl ⟨i, rfl, rfl, by simp [engineTurn, fetch, hp]⟩)
  · exact .inr (.inr (.inl ⟨_, rest, rfl, rfl⟩))
  · exact .inr (.inr (.inr (.inl ⟨_, rest, rfl, rfl⟩)))
  · rcases hp : s.pend with _ | i
    · exact .inl ⟨rfl, rfl, by simp [engineTurn, fetch, hp]⟩
    · exact .inr (.inl ⟨i, rfl, rfl, by simp [engineTurn, fetch, hp]⟩)
  · exact .inr (.inr (.inr (.inr ⟨rest, rfl, rfl⟩)))

end Sys2Proof.Machine
end

