-- ==== Sys2Proof/Laws/PerInstr.lean ====
section
/-! SUPPORT. Statements about every command as syntax, one lemma per constructor. -/

namespace Sys2Proof.Laws.CommandWord

/-- The command's fields are legal, its reserved bits are 0, and its word fits the low byte of CMD32 (R80, R88). -/
def Statement (i : Instr) : Prop :=
  i.wellFormed = true ∧ i.fields.reserved = 0#24 ∧ (encode i).toNat < 0x100 ∧ CmdFields.ofWord (encode i) = i.fields

theorem dec : Statement .dec := by unfold Statement; decide
theorem eval : Statement .eval := by unfold Statement; decide
theorem encAutoBest : Statement .encAutoBest := by unfold Statement; decide
theorem encLrBest : Statement .encLrBest := by unfold Statement; decide
theorem encTbBest : Statement .encTbBest := by unfold Statement; decide
theorem encAutoInd : Statement .encAutoInd := by unfold Statement; decide
theorem encLrInd : Statement .encLrInd := by unfold Statement; decide
theorem encTbInd : Statement .encTbInd := by unfold Statement; decide
theorem encAutoDpref : Statement .encAutoDpref := by unfold Statement; decide
theorem encLrDpref : Statement .encLrDpref := by unfold Statement; decide
theorem encTbDpref : Statement .encTbDpref := by unfold Statement; decide

end Sys2Proof.Laws.CommandWord
end

