-- ==== Sys2Proof/Tests/Slice0.lean ====
section
/-! SUPPORT. Tests.  Expected values are the spec's own: the encodings of 30_encoding.md, the worked examples of the
rules, and the vectors of 95_test_vectors.md; each test names its source.  The last part shows, for every statement that
has hypotheses, a concrete state and operands that meet them. -/

namespace Sys2Proof.Tests

open Sys2Proof Sys2Proof.Machine

/-! ## Decoding: words written out from R80 to R83, R88 -/

/-- DEC: reserved bits, CSEL and FSEL 0, OP 1 (R80, R81). -/
theorem test_decode_dec : decode 0b00000000000000000000000000000001#32 = .command .dec := by decide

/-- EVAL: OP 3 (R80, R81). -/
theorem test_decode_eval : decode 0b00000000000000000000000000000011#32 = .command .eval := by decide

/-- ENC.AUTO.BEST: CSEL 0, FSEL 0, OP 2 (R82, R83). -/
theorem test_decode_encAutoBest : decode 0b00000000000000000000000000000010#32 = .command .encAutoBest := by decide

/-- ENC.LR.BEST: CSEL 0, FSEL 1, OP 2. -/
theorem test_decode_encLrBest : decode 0b00000000000000000000000000010010#32 = .command .encLrBest := by decide

/-- ENC.TB.BEST: CSEL 0, FSEL 2, OP 2. -/
theorem test_decode_encTbBest : decode 0b00000000000000000000000000100010#32 = .command .encTbBest := by decide

/-- ENC.AUTO.IND: CSEL 1, FSEL 0, OP 2. -/
theorem test_decode_encAutoInd : decode 0b00000000000000000000000001000010#32 = .command .encAutoInd := by decide

/-- ENC.LR.IND: CSEL 1, FSEL 1, OP 2. -/
theorem test_decode_encLrInd : decode 0b00000000000000000000000001010010#32 = .command .encLrInd := by decide

/-- ENC.TB.IND: CSEL 1, FSEL 2, OP 2. -/
theorem test_decode_encTbInd : decode 0b00000000000000000000000001100010#32 = .command .encTbInd := by decide

/-- ENC.AUTO.DPREF: CSEL 2, FSEL 0, OP 2. -/
theorem test_decode_encAutoDpref : decode 0b00000000000000000000000010000010#32 = .command .encAutoDpref := by decide

/-- ENC.LR.DPREF: CSEL 2, FSEL 1, OP 2. -/
theorem test_decode_encLrDpref : decode 0b00000000000000000000000010010010#32 = .command .encLrDpref := by decide

/-- ENC.TB.DPREF: CSEL 2, FSEL 2, OP 2. -/
theorem test_decode_encTbDpref : decode 0b00000000000000000000000010100010#32 = .command .encTbDpref := by decide

/-- Reserved OP values (R81, R84; vectors of 95_test_vectors.md section 2.6). -/
theorem test_decode_badOp : decode 0x00000000#32 = .rejected .badOp ∧ decode 0x00000004#32 = .rejected .badOp ∧
    decode 0x00000010#32 = .rejected .badOp ∧ decode 0x0000000F#32 = .rejected .badOp := by decide

/-- Illegal fields (R85, R86; vectors of 95_test_vectors.md section 2.6): fields on DEC and EVAL, a reserved bit, FSEL 3
and CSEL 3. -/
theorem test_decode_badField : decode 0x00000011#32 = .rejected .badField ∧
    decode 0x00000043#32 = .rejected .badField ∧ decode 0x00000102#32 = .rejected .badField ∧
    decode 0x80000001#32 = .rejected .badField ∧ decode 0x00000032#32 = .rejected .badField ∧
    decode 0x000000C2#32 = .rejected .badField := by decide

/-- The table's numbering: one 32-bit word; a number above the word has no command. -/
theorem test_decodeTableWord : decodeTableWord 32 0x92 = some .encLrDpref ∧ decodeTableWord 32 0x32 = none ∧
    decodeTableWord 40 0x100000001 = none := by decide

/-! ## WellFormed: each check refuses an ill-formed term -/

theorem test_illFormed_op : CmdFields.wellFormed { op := 0#4, fsel := 0#2, csel := 0#2, reserved := 0#24 } = false := by
  decide

theorem test_illFormed_reserved :
    CmdFields.wellFormed { op := 1#4, fsel := 0#2, csel := 0#2, reserved := 1#24 } = false := by decide

theorem test_illFormed_dec_fsel :
    CmdFields.wellFormed { op := 1#4, fsel := 1#2, csel := 0#2, reserved := 0#24 } = false := by decide

theorem test_illFormed_eval_csel :
    CmdFields.wellFormed { op := 3#4, fsel := 0#2, csel := 2#2, reserved := 0#24 } = false := by decide

theorem test_illFormed_enc_fsel :
    CmdFields.wellFormed { op := 2#4, fsel := 3#2, csel := 0#2, reserved := 0#24 } = false := by decide

theorem test_illFormed_enc_csel :
    CmdFields.wellFormed { op := 2#4, fsel := 0#2, csel := 3#2, reserved := 0#24 } = false := by decide

theorem test_wellFormed_enc : Instr.wellFormed .encTbDpref = true := by decide

/-- A 16-bit access and a misaligned access are ill-formed, an aligned 32-bit one is not (R60, R61). -/
theorem test_illFormed_access : Access.wellFormed (.read 0x10#8 16) = false ∧
    Access.wellFormed (.write 0x10#8 64 0#32) = false ∧ Access.wellFormed (.read 0x12#8 32) = false ∧
    Access.wellFormed (.write 0xFC#8 32 0#32) = true := by decide

/-! ## The commands, one step each -/

/-- The gradient block G (41_encode.md section 3): (16x + 8y, 60 + 10x, 200 − 12y). -/
def gradient : Block :=
  Vector.ofFn fun i =>
    { r := BitVec.ofNat 8 (16 * (i.val % 4) + 8 * (i.val / 4))
      g := BitVec.ofNat 8 (60 + 10 * (i.val % 4))
      b := BitVec.ofNat 8 (200 - 12 * (i.val / 4)) }

/-- The solid block of one color. -/
def solid (p : Pixel) : Block :=
  Vector.replicate 16 p

/-- BLK_HI, BLK_LO and SCORE after one step with the command word `w` placed where the step fetches. -/
def recordAfter (s : State) (w : Nat) : Option (Word × Word × Word) :=
  match step (s.withFetchWord 32 w) with
  | .next t => some (t.blkHi, t.blkLo, t.score)
  | _ => none

/-- PIX_OUT[i] after one step with the command word `w` placed where the step fetches. -/
def pixelAfter (s : State) (w : Nat) (i : Fin 16) : Option Word :=
  match step (s.withFetchWord 32 w) with
  | .next t => some (regValue t (.pixOut i))
  | _ => none

/-- The reset state with given pixels and record. -/
def loaded (P : Block) (hi lo : Word) : State :=
  { State.reset with pixIn := P, blkHi := hi, blkLo := lo }

/-- R181, worked example (DEC-1): individual colors, left and right. -/
theorem test_dec_individual : pixelAfter (loaded (solid ⟨0, 0, 0⟩) 0x84210010#32 0x0000FFFF#32) 0x01 0 = some 0x00902A08#32 ∧
    pixelAfter (loaded (solid ⟨0, 0, 0⟩) 0x84210010#32 0x0000FFFF#32) 0x01 15 = some 0x00804D3C#32 := by decide +kernel

/-- R182 (d): the delta 31 + 1 wraps to 0; BLK_HI, BLK_LO and SCORE stay. -/
theorem test_dec_delta_wraps : pixelAfter (loaded (solid ⟨0, 0, 0⟩) 0xF9000002#32 0#32) 0x01 2 = some 0x00020202#32 ∧
    recordAfter (loaded (solid ⟨0, 0, 0⟩) 0xF9000002#32 0#32) 0x01 = some (0xF9000002#32, 0#32, 0#32) := by decide +kernel

/-- R184, worked example: EVAL of the gradient block. -/
theorem test_eval_gradient :
    recordAfter (loaded gradient 0x1A48C527#32 0x00FFF00F#32) 0x03 = some (0x1A48C527#32, 0x00FFF00F#32, 6336#32) ∧
    pixelAfter (loaded gradient 0x1A48C527#32 0x00FFF00F#32) 0x03 0 = some 0x000739B5#32 := by decide +kernel

/-- R185 (c): an all-white block against the all-zero record. -/
theorem test_eval_white_against_zero :
    recordAfter (loaded (solid ⟨255, 255, 255⟩) 0#32 0#32) 0x03 = some (0#32, 0#32, 10241440#32) := by decide +kernel

/-- R160, worked example. -/
theorem test_encAutoBest_gradient :
    recordAfter (loaded gradient 0#32 0#32) 0x02 = some (0x1A48C527#32, 0x00FFF00F#32, 6336#32) := by decide +kernel

/-- R157 (f): a solid block of (1, 0, 0) reconstructs to zero, with score 48. -/
theorem test_encAutoBest_dark :
    recordAfter (loaded (solid ⟨1, 0, 0⟩) 0#32 0#32) 0x02 = some (0x00000002#32, 0xFFFF0000#32, 48#32) := by decide +kernel

/-- R161, worked example: no differential candidate. -/
theorem test_encLrBest_gradient :
    recordAfter (loaded gradient 0#32 0#32) 0x12 = some (0x1345BB04#32, 0x0F0F0087#32, 8576#32) := by decide +kernel

/-- R162, worked example. -/
theorem test_encTbBest_gradient :
    recordAfter (loaded gradient 0#32 0#32) 0x22 = some (0x1A48C527#32, 0x00FFF00F#32, 6336#32) := by decide +kernel

/-- R163, worked example: left/right 8576 beats top/bottom 12576. -/
theorem test_encAutoInd_gradient :
    recordAfter (loaded gradient 0#32 0#32) 0x42 = some (0x1345BB04#32, 0x0F0F0087#32, 8576#32) := by decide +kernel

/-- R164, worked example. -/
theorem test_encLrInd_gradient :
    recordAfter (loaded gradient 0#32 0#32) 0x52 = some (0x1345BB04#32, 0x0F0F0087#32, 8576#32) := by decide +kernel

/-- R165, worked example. -/
theorem test_encTbInd_gradient :
    recordAfter (loaded gradient 0#32 0#32) 0x62 = some (0x2344BA25#32, 0x00FFF00F#32, 12576#32) := by decide +kernel

/-- R166, worked example. -/
theorem test_encAutoDpref_gradient :
    recordAfter (loaded gradient 0#32 0#32) 0x82 = some (0x1A48C527#32, 0x00FFF00F#32, 6336#32) := by decide +kernel

/-- R167, worked example: the individual fallback. -/
theorem test_encLrDpref_gradient :
    recordAfter (loaded gradient 0#32 0#32) 0x92 = some (0x1345BB04#32, 0x0F0F0087#32, 8576#32) := by decide +kernel

/-- R168, worked example. -/
theorem test_encTbDpref_gradient :
    recordAfter (loaded gradient 0#32 0#32) 0xA2 = some (0x1A48C527#32, 0x00FFF00F#32, 6336#32) := by decide +kernel

/-! ## The datapath at its edges (95_test_vectors.md section 2.1) -/

theorem test_applyDelta_wraps : applyDelta 29#5 0b011#3 = 0#5 ∧ applyDelta 3#5 0b100#3 = 31#5 ∧
    applyDelta 28#5 0b011#3 = 31#5 := by decide

theorem test_quant_boundaries : quant5 250#8 = 30#5 ∧ quant5 251#8 = 31#5 ∧ quant4 246#8 = 14#4 ∧ quant4 247#8 = 15#4 := by
  decide

theorem test_recon_clamps : recon ⟨100, 150, 200⟩ 6#3 1#2 = ⟨206, 255, 255⟩ ∧ recon ⟨100, 150, 200⟩ 6#3 3#2 = ⟨0, 44, 94⟩ := by
  decide

theorem test_err_weights : err ⟨200, 40, 40⟩ ⟨204, 34, 34⟩ = 300 ∧ err ⟨255, 255, 255⟩ ⟨0, 0, 0⟩ = 650250 := by decide

/-! ## The window (95_test_vectors.md sections 2.6 to 2.9, R28, R36) -/

/-- What a HOST access drives on the bus, when it is performed. -/
def answer (a : Access) (s : State) : Option Response :=
  match hostAccess a s with
  | .next t => t.resp
  | _ => none

/-- STATUS after one HOST access, when it is performed. -/
def statusAfter (a : Access) (s : State) : Option Word :=
  match hostAccess a s with
  | .next t => some t.status.word
  | _ => none

/-- The reset state after an accepted DEC, its command word in CMD. -/
def busy : State :=
  (State.reset.setCmd 0x01#32).accept .dec

/-- The reset state with a recorded error. -/
def erred : State :=
  State.reset.raise .badOp

theorem test_read_ident : answer (.read 0x0C#8 32) State.reset = some (.readData 0x45544331#32) := by decide

theorem test_read_reserved : answer (.read 0x1C#8 32) busy = some (.readData 0#32) := by decide

/-- STATUS while pending is 1; BUSY_CMD and BUSY_WRITE are recorded with codes 3 and 4. -/
theorem test_status_while_pending : answer (.read 0x04#8 32) busy = some (.readData 0x00000001#32) ∧
    statusAfter (.write 0x00#8 32 0x02#32) busy = some 0x00000035#32 ∧
    statusAfter (.write 0x40#8 32 0x00#32) busy = some 0x00000045#32 := by decide

theorem test_status_after_rejection : statusAfter (.write 0x00#8 32 0x04#32) State.reset = some 0x00000014#32 ∧
    statusAfter (.write 0x00#8 32 0x32#32) State.reset = some 0x00000024#32 := by decide

/-- R32: bits 31:24 are ignored on a write and read as 0. -/
theorem test_pixel_high_byte : regValue (writeEffect (.pixIn 15) 0xFF123456#32 State.reset) (.pixIn 15) = 0x00123456#32 := by
  decide

/-- The actions still to come after one step. -/
def scheduleAfter (s : State) : Option (List Action) :=
  match step s with
  | .next t => some t.schedule
  | _ => none

/-- R99: a poll of WAIT while pending does not end it, and the ENGINE has its turn; R99 and R237: ERR = 1 ends it. -/
theorem test_wait : scheduleAfter { busy with schedule := [.wait 1] } = some [.wait 0] ∧
    scheduleAfter { busy with schedule := [.wait 0] } = some [.engine, .wait 0] ∧
    scheduleAfter { erred with schedule := [.wait 0, .reset] } = some [.reset] := by decide

/-! ## Witnesses: for every statement with hypotheses, values that meet them -/

/-- Left and right halves, and top and bottom halves, far apart: only the first quarter is white. -/
def quarter : Block :=
  Vector.ofFn fun i => if i.val % 4 < 2 ∧ i.val / 4 < 2 then ⟨255, 255, 255⟩ else ⟨0, 0, 0⟩

theorem witness_ExactlyElevenWordsStartACommand : State.reset.status.busy = false ∧ State.reset.status.err = false ∧
    0xA2#32 ∈ [0x01#32, 0x03#32, 0x02#32, 0x12#32, 0x22#32, 0x42#32, 0x52#32, 0x62#32, 0x82#32, 0x92#32, 0xA2#32] ∧
    0xB2#32 ∉ [0x01#32, 0x03#32, 0x02#32, 0x12#32, 0x22#32, 0x42#32, 0x52#32, 0x62#32, 0x82#32, 0x92#32, 0xA2#32] := by
  decide

theorem witness_CmdWriteFirstChecksBusyThenOp : busy.status.busy = true ∧ State.reset.status.busy = false ∧
    (0x04#32).extractLsb' 0 4 ∉ [0x1#4, 0x2#4, 0x3#4] ∧ (0x10#32).extractLsb' 0 4 ∉ [0x1#4, 0x2#4, 0x3#4] := by decide

theorem witness_CmdWriteRejectsIllegalFields : State.reset.status.busy = false ∧
    ((0x102#32).extractLsb' 0 4 ∈ [0x1#4, 0x2#4, 0x3#4] ∧ (0x102#32).extractLsb' 8 24 ≠ 0#24) ∧
    ((0x11#32).extractLsb' 0 4 ∈ [0x1#4, 0x3#4] ∧ (0x11#32).extractLsb' 4 4 ≠ 0#4) ∧
    ((0x32#32).extractLsb' 0 4 = 0x2#4 ∧ (0x32#32).extractLsb' 8 24 = 0#24 ∧ (0x32#32).extractLsb' 4 2 = 3#2) ∧
    ((0xC2#32).extractLsb' 0 4 = 0x2#4 ∧ (0xC2#32).extractLsb' 8 24 = 0#24 ∧ (0xC2#32).extractLsb' 6 2 = 3#2) := by
  decide

/-- 0xA2 and 0x03 are legal, 0xB2 is not. -/
theorem witness_CmdWriteAcceptsLegalCommands : State.reset.status.busy = false ∧
    ((0xA2#32).extractLsb' 8 24 = 0#24 ∧ (0xA2#32).extractLsb' 0 4 = 0x2#4 ∧ (0xA2#32).extractLsb' 4 2 ≠ 3#2 ∧
      (0xA2#32).extractLsb' 6 2 ≠ 3#2) ∧
    ((0x03#32).extractLsb' 8 24 = 0#24 ∧ (0x03#32).extractLsb' 0 4 ∈ [0x1#4, 0x3#4] ∧ (0x03#32).extractLsb' 4 4 = 0#4) ∧
    ¬ ((0xB2#32).extractLsb' 8 24 = 0#24 ∧
      (((0xB2#32).extractLsb' 0 4 ∈ [0x1#4, 0x3#4] ∧ (0xB2#32).extractLsb' 4 4 = 0#4) ∨
        ((0xB2#32).extractLsb' 0 4 = 0x2#4 ∧ (0xB2#32).extractLsb' 4 2 ≠ 3#2 ∧ (0xB2#32).extractLsb' 6 2 ≠ 3#2))) := by
  decide

theorem witness_RecordRegistersAreWritableOnlyWhileIdle :
    State.reset.status.busy = false ∧ busy.status.busy = true := by decide

theorem witness_InputPixelsAreWritableOnlyWhileIdle :
    State.reset.status.busy = false ∧ busy.status.busy = true ∧ (15 : Fin 16) ≠ 0 := by decide

/-- The ends of both reserved ranges. -/
theorem witness_ReservedOffsetsReadZeroAndIgnoreWrites : ∀ off ∈ [0x1C#8, 0x3C#8, 0xC0#8, 0xFC#8],
    off.toNat % 4 = 0 ∧ ((0x1C ≤ off.toNat ∧ off.toNat ≤ 0x3C) ∨ 0xC0 ≤ off.toNat) := by decide

theorem witness_WritesOtherThanCmdAreIdempotent : ∀ off ∈ [0x04#8, 0xFC#8], off.toNat % 4 = 0 ∧ off ≠ 0x00#8 := by decide

/-- A result register while pending; another register while pending; a result register while idle. -/
theorem witness_ResultReadsAreUnspecifiedWhileBusy : busy.status.busy = true ∧ isResult (.pixOut 15) = true ∧
    isResult .status = false ∧ State.reset.status.busy = false := by decide

theorem witness_IllegalAccessesFaultTheHost : ((16 ≠ 32 ∨ (0x10#8).toNat % 4 ≠ 0) ∧
    (32 ≠ 32 ∨ (0x01#8).toNat % 4 ≠ 0) ∧ (64 ≠ 32 ∨ (0xFF#8).toNat % 4 ≠ 0)) := by decide

theorem witness_FirstErrorIsRecorded : erred.status.err = true ∧ State.reset.status.err = false := by decide

/-- An error stands through an idle step; a write of STATUS, a legal command and reset clear it. -/
theorem witness_RecordedErrorStaysUntilCleared : erred.status.err = true ∧
    (∃ t, step erred = .next t ∧ t.status.err = true ∧ t.status.errcode = 0x1#4) ∧
    (∃ t, step { erred with schedule := [.host (.write 0x04#8 32 0x04#32)] } = .next t ∧ t.status.err = false) ∧
    (∃ t, step { erred with schedule := [.host (.write 0x00#8 32 (encode .eval))] } = .next t ∧
      t.status.err = false ∧ t.pend = some .eval) ∧
    (∃ t, step { erred with schedule := [.reset] } = .next t ∧ t.status.err = false) :=
  ⟨by decide, ⟨_, rfl, by decide⟩, ⟨_, rfl, by decide⟩, ⟨_, rfl, by decide⟩, ⟨_, rfl, by decide⟩⟩

theorem witness_OnlyCompletionSetsDone :
    ∃ t, step busy = .next t ∧ busy.status.done = false ∧ t.status.done = true :=
  ⟨_, rfl, by decide, rfl⟩

theorem witness_InterruptFollowsDoneAndErr : irq { erred with irqen := true } = true ∧ erred.status.busy = false := by
  decide

/-- Two words that differ in bits pixel 0 does not read; a record in differential mode with every delta 0. -/
theorem witness_DecodedPixelDependencies :
    ((0x00000000#32).getLsbD (selpos 0) = (0xFFFEFFFE#32).getLsbD (selpos 0) ∧
      (0x00000000#32).getLsbD (16 + selpos 0) = (0xFFFEFFFE#32).getLsbD (16 + selpos 0)) ∧
    (recDiff 0xF8F8F802#32 = true ∧ recDelta 0xF8F8F802#32 = { r := 0#3, g := 0#3, b := 0#3 }) := by decide

theorem witness_PackedColorsAreReadBack : representable (solid ⟨255, 0, 7⟩) true = true := by decide +kernel

/-- A pixel whose best selector is not 0, and a half whose best table is not 0. -/
theorem witness_BestSelectorAndTableAreTheFirstLeast :
    (1#2).toNat < (bestSel ⟨0, 0, 0⟩ ⟨255, 255, 255⟩ 7#3).toNat ∧
    (0#3).toNat < (bestTable (solid ⟨255, 255, 255⟩) false .one ⟨0, 0, 0⟩).toNat := by decide +kernel

theorem witness_CandidateCounts : FSel.lr ≠ .auto ∧ FSel.tb ≠ .auto := by decide

/-- The quarter block has no differential candidate under either flip. -/
theorem witness_WiderSearchIsNeverWorse : ∀ f ∈ flips .auto, representable quarter f = false := by decide +kernel

/-- A record with the base colors and the partition of a visited candidate. -/
theorem witness_EncoderIsOptimalForItsColors : true ∈ flips .auto ∧ Mode.individual ∈ modes gradient .best true ∧
    recFlip 0x2344BA25#32 = true ∧ baseColor 0x2344BA25#32 .one = (colors gradient true .individual).base .one ∧
    baseColor 0x2344BA25#32 .two = (colors gradient true .individual).base .two := by decide +kernel

theorem witness_EncVariantsWriteTheEncodedBlock : (Instr.encTbDpref, FSel.tb, CSel.dpref) ∈
    [(Instr.encAutoBest, FSel.auto, CSel.best), (.encLrBest, .lr, .best), (.encTbBest, .tb, .best),
      (.encAutoInd, .auto, .ind), (.encLrInd, .lr, .ind), (.encTbInd, .tb, .ind),
      (.encAutoDpref, .auto, .dpref), (.encLrDpref, .lr, .dpref), (.encTbDpref, .tb, .dpref)] := by decide

/-- Two states that agree on the operands and differ elsewhere. -/
theorem witness_ResultsDependOnOperandsOnly : (loaded gradient 1#32 2#32) ≠ erred.setPixIn 0 7#32 ∧
    (loaded gradient 1#32 2#32).pixIn = ((loaded gradient 1#32 2#32).raise .badOp).pixIn ∧
    (loaded gradient 1#32 2#32).blkHi = ((loaded gradient 1#32 2#32).raise .badOp).blkHi ∧
    (loaded gradient 1#32 2#32).blkLo = ((loaded gradient 1#32 2#32).raise .badOp).blkLo ∧
    (loaded gradient 1#32 2#32).status ≠ ((loaded gradient 1#32 2#32).raise .badOp).status := by decide +kernel

/-- A state that holds an ENC's results and its PIX_IN: the state after it. -/
theorem witness_EncScoreIsItsReconstructionError : ∃ t, exec (Instr.enc .auto .best) (loaded gradient 0#32 0#32) = .next t ∧
    t.pixIn = (loaded gradient 0#32 0#32).pixIn ∧ t.score = 6336#32 :=
  ⟨_, rfl, rfl, by decide +kernel⟩

/-- The ENGINE's turn with and without a pending command, and a HOST access. -/
theorem witness_StepPerformsTheNextAction : busy.engineNext ∧ busy.pend = some .dec ∧
    ({ busy with schedule := [.engine, .reset] } : State).engineNext ∧ State.reset.engineNext ∧ State.reset.pend = none ∧
    ({ busy with schedule := [.host (.read 0x04#8 32)] } : State).schedule = .host (.read 0x04#8 32) :: [] :=
  ⟨.inl rfl, rfl, .inr ⟨_, rfl⟩, .inl rfl, rfl, rfl⟩

theorem witness_WrittenCommandRunsAtTheEnginesTurn : decode 0x92#32 = .command .encLrDpref ∧
    State.reset.status.busy = false ∧
    ({ State.reset with schedule := [.host (.write 0x00#8 32 0x92#32), .engine] } : State).schedule =
      .host (.write 0x00#8 32 0x92#32) :: .engine :: [] := by decide

/-- A reset while a command is pending. -/
theorem witness_ResetClearsEveryRegister :
    ({ busy with schedule := [.reset] } : State).schedule = .reset :: [] ∧
    ({ busy with schedule := [.reset] } : State).pend = some .dec := by decide

/-- A legal state that steps to a next state, and one that faults. -/
theorem witness_StepsKeepTheStateLegal : busy.Inv ∧ (∃ t, step busy = .next t) ∧
    ({ busy with schedule := [.host (.read 0x04#8 8)] } : State).Inv ∧
    (∃ a t, step { busy with schedule := [.host (.read 0x04#8 8)] } = .fault (.hostBusError a t)) :=
  ⟨by decide, ⟨_, rfl⟩, by decide, ⟨_, _, rfl⟩⟩

theorem witness_LegalRunsNeverStop : ({ busy with schedule :=
    [.host (.read 0x18#8 32), .engine, .host (.write 0x00#8 32 0xFF#32), .reset] } : State).legalSchedule = true := by
  decide

/-- A pending command under writes that are dropped. -/
theorem witness_PendingCommandIsUndisturbed : ({ busy with schedule :=
      [Access.write 0x10#8 32 5#32, .write 0x00#8 32 0x02#32, .read 0x14#8 32].map Action.host } : State).schedule =
      [Access.write 0x10#8 32 5#32, .write 0x00#8 32 0x02#32, .read 0x14#8 32].map Action.host ∧
    busy.pend = some .dec ∧ busy.status.busy = true ∧
    (∀ a ∈ [Access.write 0x10#8 32 5#32, .write 0x00#8 32 0x02#32, .read 0x14#8 32], a.wellFormed = true) := by decide

/-- A poll that does not end WAIT and one that does, a pending command in a legal state with no error, and a rejected
word; for WAIT and for a single read of STATUS. -/
theorem witness_WaitEndsAfterCompletionOrRejection :
    (({ busy with schedule := [.wait 1] } : State).schedule = .wait 1 :: [] ∧
      (regValue ({ busy with schedule := [.wait 1] } : State) .status).getLsbD 1 = false ∧
      (regValue ({ busy with schedule := [.wait 1] } : State) .status).getLsbD 2 = false) ∧
    (({ erred with schedule := [.wait 0] } : State).schedule = .wait 0 :: [] ∧
      (regValue ({ erred with schedule := [.wait 0] } : State) .status).getLsbD 2 = true) ∧
    (({ busy with schedule := [.wait 1] } : State).pend = some .dec ∧
      ({ busy with schedule := [.wait 1] } : State).Inv ∧
      ({ busy with schedule := [.wait 1] } : State).status.err = false) ∧
    (decode 0x04#32 = .rejected .badOp ∧
      ({ State.reset with schedule := [.host (wr .cmd 0x04#32), .wait 0] } : State).schedule =
        .host (wr .cmd 0x04#32) :: .wait 0 :: []) ∧
    (({ busy with schedule := [.engine, .host (rd .status)] } : State).pend = some .dec ∧
      ({ busy with schedule := [.engine, .host (rd .status)] } : State).schedule = .engine :: .host (rd .status) :: []) ∧
    ({ State.reset with schedule := [.host (wr .cmd 0x04#32), .host (rd .status)] } : State).schedule =
      .host (wr .cmd 0x04#32) :: .host (rd .status) :: [] := by decide

end Sys2Proof.Tests
end

section
/-! SUPPORT. The rules of one access: which register an aligned offset names, and what a read and a write of it answer.
Every proof about HOST accesses cites these and does not unfold the window. -/

namespace Sys2Proof.Machine

/-! The window at an offset -/

/-- An aligned offset that is not reserved is the offset of the register it names (R20). -/
theorem regOffset_regAt (off : BitVec 8) (aligned : off.toNat % 4 = 0) (named : regAt off ≠ .reserved) :
    regOffset (regAt off) = off := by
  revert off; decide

/-- The reserved ranges of R36 name no register. -/
theorem regAt_of_reserved (off : BitVec 8)
    (h : (0x1C ≤ off.toNat ∧ off.toNat ≤ 0x3C) ∨ 0xC0 ≤ off.toNat) : regAt off = .reserved := by
  revert off; decide

/-- ID stands at 0x0C and nowhere else (R20). -/
theorem regAt_eq_ident_iff (off : BitVec 8) : regAt off = .ident ↔ off = 0x0C#8 := by
  revert off; decide

/-- The offset of a legal access is a multiple of 4 (R60). -/
theorem Access.aligned_of_wellFormed {a : Access} (h : a.wellFormed = true) : a.offset.toNat % 4 = 0 := by
  simp only [Access.wellFormed, Bool.and_eq_true, beq_iff_eq] at h
  exact h.2

/-- A legal access is 32 bits wide (R60). -/
theorem Access.width_of_wellFormed {a : Access} (h : a.wellFormed = true) : a.width = 32 := by
  simp only [Access.wellFormed, Bool.and_eq_true, beq_iff_eq] at h
  exact h.1

/-- A 32-bit read at any aligned offset reads the register there (R60). -/
theorem hostAccess_read_aligned (off : BitVec 8) (s : State) (aligned : off.toNat % 4 = 0) :
    hostAccess (.read off 32) s = .next (readReg (regAt off) s) := by
  simp [hostAccess, Access.wellFormed, Access.width, Access.offset, aligned]

/-- A 32-bit write at any aligned offset writes the register there (R60). -/
theorem hostAccess_write_aligned (off : BitVec 8) (v : Word) (s : State) (aligned : off.toNat % 4 = 0) :
    hostAccess (.write off 32 v) s = .next (writeReg (regAt off) v s) := by
  simp [hostAccess, Access.wellFormed, Access.width, Access.offset, aligned]

/-- A 32-bit write at a register's offset answers the write's effect, and the completion on the bus (R60). -/
theorem hostAccess_write_of_effect {r : Reg} {v : Word} {s t : State} (effect : writeEffect r v s = t) :
    hostAccess (.write (regOffset r) 32 v) s = .next { t with resp := some .writeDone } := by
  rw [hostAccess_write, writeReg, effect]
  rfl

/-! Reads -/

/-- The result registers of R39. -/
theorem isResult_iff (r : Reg) :
    isResult r = true ↔ r = .blkHi ∨ r = .blkLo ∨ r = .score ∨ ∃ i, r = .pixOut i := by
  cases r <;> simp [isResult]

/-- A read of a result register while BUSY = 1 draws a free value (R39). -/
theorem readReg_of_free {r : Reg} {s : State} (busy : s.status.busy = true) (result : isResult r = true) :
    readReg r s = (s.respond (.readData (Config.unspecifiedRead s.freeReads))).drawFree := by
  simp [readReg, busy, result]

/-- Every other read returns the register's value (R39, R60). -/
theorem readReg_of_stored {r : Reg} {s : State} (h : s.status.busy = false ∨ isResult r = false) :
    readReg r s = s.respond (.readData (regValue s r)) := by
  rcases h with h | h <;> simp [readReg, h]

/-- A legal read writes nothing but the bus response and the free-value counter (R60, R65). -/
theorem readReg_frame (r : Reg) (s : State) :
    ∃ v n, readReg r s = { s with resp := some (.readData v), freeReads := n } := by
  rcases readReg_cases r s with ⟨_, _, e⟩ | ⟨_, e⟩
  · exact ⟨_, _, e⟩
  · exact ⟨_, _, e⟩

/-! Writes -/

/-- While BUSY = 0 an operand register takes the write (R29, R30, R32). -/
theorem writeOperand_of_idle {s : State} (store : State → State) (idle : s.status.busy = false) :
    writeOperand store s = store s := by
  simp [writeOperand, idle]

/-- While BUSY = 1 a write to an operand register is dropped with BUSY_WRITE (R201). -/
theorem writeOperand_of_busy {s : State} (store : State → State) (busy : s.status.busy = true) :
    writeOperand store s = s.raise .busyWrite := by
  simp [writeOperand, busy]

/-- While BUSY = 0 a legal command word is stored and accepted (R21, R87). -/
theorem writeCmd_of_command {s : State} {v : Word} {i : Instr} (idle : s.status.busy = false)
    (h : decode v = .command i) : writeCmd v s = (s.setCmd v).accept i := by
  simp [writeCmd, idle, h]

/-- A write to an operand register keeps whatever raising BUSY_WRITE and storing keep. -/
theorem writeOperand_keeps {α : Type} (f : State → α) {store : State → State} {s : State}
    (raised : f (s.raise .busyWrite) = f s) (stored : f (store s) = f s) : f (writeOperand store s) = f s := by
  rcases writeOperand_cases store s with ⟨_, e⟩ | ⟨_, e⟩
  · rw [e, raised]
  · rw [e, stored]

/-- No write touches SCORE (R31). -/
@[simp] theorem writeEffect_score (r : Reg) (v : Word) (s : State) : (writeEffect r v s).score = s.score := by
  cases r with
  | cmd => rcases writeCmd_cases v s with ⟨_, e⟩ | ⟨_, _, _, e⟩ | ⟨_, _, _, e⟩ <;> simp [writeEffect, e]
  | blkHi => exact writeOperand_keeps State.score rfl rfl
  | blkLo => exact writeOperand_keeps State.score rfl rfl
  | pixIn i => exact writeOperand_keeps State.score rfl rfl
  | _ => rfl

/-- A write to an operand register leaves PEND, and the flags but for BUSY_WRITE (R29, R30, R32, R201). -/
theorem writeOperand_flags {store : State → State} {s : State} (pend : (store s).pend = s.pend)
    (status : (store s).status = s.status) :
    (writeOperand store s).pend = s.pend ∧
      ((writeOperand store s).status = s.status ∨ ∃ e, (writeOperand store s).status = s.status.raise e) := by
  rcases writeOperand_cases store s with ⟨_, e⟩ | ⟨_, e⟩
  · exact ⟨by simp [e], .inr ⟨.busyWrite, by simp [e]⟩⟩
  · exact ⟨by rw [e, pend], .inl (by rw [e, status])⟩

/-- What a legal write can do to the flags and PEND: nothing, record an error, clear bits of STATUS, or accept a
command (R23, R24, R87, R202). -/
theorem writeEffect_flags (r : Reg) (v : Word) (s : State) :
    ((writeEffect r v s).pend = s.pend ∧
      ((writeEffect r v s).status = s.status ∨
        (∃ e, (writeEffect r v s).status = s.status.raise e) ∨
        (r = .status ∧ (writeEffect r v s).status = s.status.writeOneToClear v))) ∨
    (∃ i, r = .cmd ∧ s.status.busy = false ∧ decode v = .command i ∧
      writeEffect r v s = (s.setCmd v).accept i) := by
  cases r with
  | cmd =>
    rcases writeCmd_cases v s with ⟨_, e⟩ | ⟨idle, i, hi, e⟩ | ⟨_, c, _, e⟩
    · exact .inl ⟨by simp [writeEffect, e], .inr (.inl ⟨.busyCmd, by simp [writeEffect, e]⟩)⟩
    · exact .inr ⟨i, rfl, idle, hi, e⟩
    · exact .inl ⟨by simp [writeEffect, e], .inr (.inl ⟨c, by simp [writeEffect, e]⟩)⟩
  | status => exact .inl ⟨rfl, .inr (.inr ⟨rfl, rfl⟩)⟩
  | blkHi => exact .inl ((writeOperand_flags (store := State.setBlkHi v) rfl rfl).imp_right (·.imp_right .inl))
  | blkLo => exact .inl ((writeOperand_flags (store := State.setBlkLo v) rfl rfl).imp_right (·.imp_right .inl))
  | pixIn i => exact .inl ((writeOperand_flags (store := State.setPixIn i v) rfl rfl).imp_right (·.imp_right .inl))
  | _ => exact .inl ⟨rfl, .inl rfl⟩

/-- While BUSY = 1 a write can change only flags other than BUSY, and IRQEN (R21, R29 to R33). -/
theorem writeEffect_of_busy (r : Reg) (v : Word) {s : State} (busy : s.status.busy = true) :
    ∃ st ie, st.busy = true ∧ writeEffect r v s = { s with status := st, irqen := ie } := by
  have raised (e : ErrorCause) : ∃ st ie, st.busy = true ∧ s.raise e = { s with status := st, irqen := ie } :=
    ⟨s.status.raise e, s.irqen, by simpa using busy, rfl⟩
  cases r with
  | cmd => simpa [writeEffect, writeCmd, busy] using raised .busyCmd
  | status => exact ⟨s.status.writeOneToClear v, s.irqen, busy, rfl⟩
  | ctrl => exact ⟨s.status, v.getLsbD 0, busy, rfl⟩
  | blkHi | blkLo | pixIn => simpa only [writeEffect, writeOperand_of_busy _ busy] using raised .busyWrite
  | _ => exact ⟨s.status, s.irqen, busy, rfl⟩

end Sys2Proof.Machine
end

section
/-! SUPPORT. The next action of a step, and runs in parts. -/

namespace Sys2Proof.Machine

/-- The ENGINE is next exactly when its action heads the schedule or no action is to come (R35). -/
theorem engineNext_iff (s : State) : s.engineNext ↔ nextAction s = .engine := by
  unfold State.engineNext nextAction
  rcases s.schedule with _ | ⟨a, rest⟩ <;> simp

/-- At the ENGINE's turn the pending command runs (R34). -/
theorem step_of_pending {s : State} {i : Instr} (turn : s.engineNext) (pend : s.pend = some i) :
    step s = exec i s.beginStep := by
  simp [step, (engineNext_iff s).1 turn, engineTurn, fetch, pend]

/-- The ENGINE's turn with nothing pending only uses up the turn (R232). -/
theorem step_of_idle {s : State} (turn : s.engineNext) (pend : s.pend = none) : step s = .next s.beginStep := by
  simp [step, (engineNext_iff s).1 turn, engineTurn, fetch, pend]

/-- A HOST access that is next is performed (R60, R68). -/
theorem step_of_host {s : State} {a : Access} {rest : List Action} (next : s.schedule = .host a :: rest) :
    step s = hostAccess a s.beginStep := by
  simp [step, nextAction, next]

/-- A run goes on from where a part of it ended. -/
theorem run_add (M : Host.Core) (m n : Nat) {s t : M.State} (h : M.run m s = .next t) :
    M.run (m + n) s = M.run n t := by
  induction m generalizing s with
  | zero =>
    simp only [Host.Core.run, Host.Outcome.next.injEq] at h
    rw [h, Nat.zero_add]
  | succ m ih =>
    rcases e : M.step s with u | _ | _
    · rw [run_succ M m s u e] at h
      rw [Nat.add_right_comm, run_succ M (m + n) s u e, ih h]
    all_goals simp [Host.Core.run, e] at h

end Sys2Proof.Machine
end

section
/-! SUPPORT. Decoding gives a command only for its own word (R88). -/

namespace Sys2Proof

/-- Cutting a command word into its fields loses no bit (R80). -/
theorem CmdFields.word_ofWord (v : Word) : (CmdFields.ofWord v).word = v := by
  have join : (v.extractLsb' 8 24 ++ v.extractLsb' 6 2 ++ v.extractLsb' 4 2 ++ v.extractLsb' 0 4 : BitVec 32) = v := by
    apply BitVec.eq_of_getLsbD_eq
    intro i hi
    simp only [BitVec.getLsbD_append, BitVec.getLsbD_extractLsb']
    grind
  exact join

/-- FSEL's bits are those of the value read from them (R82). -/
theorem FSel.bits_of_ofBits {b : BitVec 2} {fs : FSel} (h : FSel.ofBits b = some fs) : b = fs.bits := by
  revert b fs; decide

/-- CSEL's bits are those of the value read from them (R83). -/
theorem CSel.bits_of_ofBits {b : BitVec 2} {cs : CSel} (h : CSel.ofBits b = some cs) : b = cs.bits := by
  revert b cs; decide

/-- The fields of an ENC variant (R81 to R83). -/
theorem Instr.fields_enc (fs : FSel) (cs : CSel) :
    (Instr.enc fs cs).fields = { op := 2#4, fsel := fs.bits, csel := cs.bits, reserved := 0#24 } := by
  cases fs <;> cases cs <;> rfl

/-- Fields that decode to a command are that command's fields (R81 to R87). -/
theorem eq_fields_of_decodeFields {f : CmdFields} {i : Instr} (h : decodeFields f = .command i) : f = i.fields := by
  obtain ⟨op, fsel, csel, reserved⟩ := f
  simp only [decodeFields] at h
  split at h
  · cases h
  · next legalOp =>
    split at h
    · cases h
    · next legalFields =>
      push Not at legalFields
      obtain ⟨rfl, zeroFields⟩ := legalFields
      split at h
      · next isDec =>
        cases h
        obtain ⟨rfl, rfl⟩ := zeroFields (by simp [isDec])
        rw [isDec]; rfl
      · next notDec =>
        split at h
        · next isEval =>
          cases h
          obtain ⟨rfl, rfl⟩ := zeroFields (by simp [isEval])
          rw [isEval]; rfl
        · next notEval =>
          have isEnc : op = 2#4 := by
            by_contra notEnc
            exact legalOp ⟨notDec, notEnc, notEval⟩
          split at h
          · next fs cs hfs hcs =>
            cases h
            rw [Instr.fields_enc, isEnc, FSel.bits_of_ofBits hfs, CSel.bits_of_ofBits hcs]
          · cases h

/-- A word that decodes to a command is that command's word (R88). -/
theorem eq_encode_of_decode {v : Word} {i : Instr} (h : decode v = .command i) : v = encode i := by
  rw [encode, ← eq_fields_of_decodeFields h, CmdFields.word_ofWord]

end Sys2Proof
end

section
/-! SUPPORT. The bounds of the error measure (R31, R129): what a command writes to SCORE fits its range. -/

namespace Sys2Proof.Machine

/-- The square of a difference of bytes is at most 255². -/
theorem sqDiff_le (a b : Byte) : sqDiff a b ≤ 255 ^ 2 :=
  Nat.pow_le_pow_left (by omega) 2

/-- The error of a pixel is at most 10 × 255² (R129). -/
theorem err_le (p q : Pixel) : err p q ≤ 650250 := by
  have hr := sqDiff_le p.r q.r
  have hg := sqDiff_le p.g q.g
  have hb := sqDiff_le p.b q.b
  unfold err
  omega

/-- A sum over a list is at most its length times a bound of its terms. -/
theorem sum_map_le {α : Type} (l : List α) (f : α → Nat) (c : Nat) (h : ∀ x, f x ≤ c) :
    (l.map f).sum ≤ l.length * c := by
  simpa using List.sum_le_card_nsmul (l.map f) c (by simpa using fun x _ => h x)

/-- The score of a block is at most 16 × 10 × 255² (R129). -/
theorem blockScore_le (P Q : Block) : blockScore P Q ≤ maxScore := by
  simpa [maxScore, blockScore] using sum_map_le (List.finRange 16) (fun i => err P[i] Q[i]) 650250 fun i => err_le _ _

/-- A sub-block has eight pixels (R121, R123). -/
theorem members_length (flip : Bool) (j : SubBlock) : (members flip j).length = 8 := by
  cases flip <;> cases j <;> decide

/-- The error of a sub-block is at most that of eight pixels (R150). -/
theorem tableErr_le (P : Block) (flip : Bool) (j : SubBlock) (c : Pixel) (t : BitVec 3) :
    tableErr P flip j c t ≤ 8 * 650250 := by
  rw [← members_length flip j]
  exact sum_map_le _ _ _ fun i => (bestErr_le P[i] c t 0#2).trans (err_le _ _)

/-- The score of an ENC is within SCORE's range (R31, R152). -/
theorem encodeBlock_score_le (P : Block) (fs : FSel) (cs : CSel) : (encodeBlock P fs cs).score ≤ maxScore := by
  obtain ⟨f, _, m, _, kept⟩ := (mem_candidates P fs cs _).1 (encodeBlock_mem P fs cs)
  rw [← kept]
  have one := tableErr_le P f .one (colors P f m).base1 (bestTable P f .one (colors P f m).base1)
  have two := tableErr_le P f .two (colors P f m).base2 (bestTable P f .two (colors P f m).base2)
  simp only [candidateOf, maxScore]
  omega

/-- SCORE holds a score in range without loss (log entry 18). -/
theorem setScore_toNat_le {n : Nat} (s : State) (h : n ≤ maxScore) : (s.setScore n).score.toNat ≤ maxScore := by
  rw [State.setScore_score, BitVec.toNat_ofNat]
  exact (Nat.mod_le n _).trans h

/-- Every command leaves SCORE within its range: DEC does not write it, EVAL and ENC write a score (R31). -/
theorem exec_score_le {i : Instr} {s t : State} (h : exec i s = .next t) (bound : s.score.toNat ≤ maxScore) :
    t.score.toNat ≤ maxScore := by
  rcases instr_cases i with rfl | rfl | ⟨fs, cs, rfl⟩
  · obtain rfl := Host.Outcome.next.inj ((exec_dec s).symm.trans h)
    exact bound
  · obtain rfl := Host.Outcome.next.inj ((exec_eval s).symm.trans h)
    rw [State.complete_score]
    exact setScore_toNat_le _ (blockScore_le _ _)
  · obtain rfl := Host.Outcome.next.inj ((exec_enc fs cs s).symm.trans h)
    rw [State.complete_score, State.writeOut_score]
    exact setScore_toNat_le _ (encodeBlock_score_le _ _ _)

end Sys2Proof.Machine
end

section
/-! The invariant of the legal states (O53, O54): reset meets it, and every action keeps it. -/

namespace Sys2Proof.Machine

/-! The flags -/

/-- The recorded codes are those of R201. -/
theorem errorCode_bounds (e : ErrorCause) : errorCode e ≠ 0#4 ∧ (errorCode e).toNat ≤ 4 := by
  cases e <;> decide

/-- Recording an error keeps the flags legal (R25, R202). -/
theorem Status.raise_inv (e : ErrorCause) {st : Status} {pend : Option Instr} (h : st.Inv pend) :
    (st.raise e).Inv pend := by
  obtain ⟨busy, done, code, bound⟩ := h
  obtain ⟨nonzero, le⟩ := errorCode_bounds e
  refine ⟨by simpa using busy, by simpa using done, ?_, ?_⟩ <;> rw [Status.raise_errcode] <;> split <;> simp_all

/-- Clearing bits of STATUS keeps the flags legal (R23 to R25). -/
theorem Status.writeOneToClear_inv (v : Word) {st : Status} {pend : Option Instr} (h : st.Inv pend) :
    (st.writeOneToClear v).Inv pend := by
  obtain ⟨busy, done, code, bound⟩ := h
  refine ⟨busy, ?_, ?_, ?_⟩ <;> simp only [Status.writeOneToClear] <;> split <;> simp_all

/-- Acceptance makes the flags agree with the new pending command (R87). -/
theorem Status.accept_inv (st : Status) (i : Instr) : st.accept.Inv (some i) := by
  simp [Status.Inv]

/-- Completion makes the flags agree with no pending command (R34). -/
theorem Status.complete_inv {st : Status} {pend : Option Instr} (h : st.Inv pend) : st.complete.Inv none := by
  obtain ⟨_, _, code, bound⟩ := h
  exact ⟨rfl, fun _ => rfl, code, bound⟩

/-! The actions -/

/-- In a legal state no command is pending while BUSY = 0 (R34). -/
theorem State.Inv.pend_eq_none {s : State} (h : s.Inv) (idle : s.status.busy = false) : s.pend = none := by
  obtain ⟨⟨busy, _⟩, _⟩ := h
  rw [idle] at busy
  exact Option.isNone_iff_eq_none.1 (by simpa using busy.symm)

/-- A read keeps a state legal. -/
theorem readReg_inv (r : Reg) {s : State} (h : s.Inv) : (readReg r s).Inv := by
  obtain ⟨v, n, e⟩ := readReg_frame r s
  rw [e]
  exact h

/-- Accepting the command a word decodes to keeps a state legal (R87). -/
theorem accept_inv {v : Word} {i : Instr} {s : State} (h : s.Inv) (decoded : decode v = .command i) :
    ((s.setCmd v).accept i).Inv := by
  obtain ⟨_, score, _⟩ := h
  refine ⟨Status.accept_inv s.status i, score, fun j pend => ?_⟩
  cases pend
  exact eq_encode_of_decode decoded

/-- A write keeps a state legal: it accepts a command, or leaves PEND, and CMD too while a command is pending. -/
theorem writeEffect_inv (r : Reg) (v : Word) {s : State} (h : s.Inv) : (writeEffect r v s).Inv := by
  obtain ⟨flags, score, cmd⟩ := id h
  rcases writeEffect_flags r v s with ⟨pend, status⟩ | ⟨i, _, _, decoded, e⟩
  · refine ⟨?_, by simpa using score, fun j hj => ?_⟩
    · rw [pend]
      rcases status with e | ⟨c, e⟩ | ⟨_, e⟩ <;> rw [e]
      · exact flags
      · exact Status.raise_inv c flags
      · exact Status.writeOneToClear_inv v flags
    · rw [pend] at hj
      have busy : s.status.busy = true := by
        by_contra idle
        rw [h.pend_eq_none (by simpa using idle)] at hj
        cases hj
      obtain ⟨st, ie, _, e⟩ := writeEffect_of_busy r v busy
      rw [e]
      exact cmd j hj
  · rw [e]
    exact accept_inv h decoded

/-- An outcome that is a legal next state ends in no illegal state. -/
theorem inv_of_next {o : Host.Outcome State Fault Refusal} {u : State} (e : o = .next u) (h : u.Inv) :
    (∀ t, o = .next t → t.Inv) ∧ (∀ a t, o = .fault (.hostBusError a t) → t.Inv) := by
  subst e
  refine ⟨fun t ht => ?_, fun a t ht => by cases ht⟩
  obtain rfl := Host.Outcome.next.inj ht
  exact h

/-- A HOST access keeps a state legal, whether it is performed or ends in the HOST's bus error (R60, R61). -/
theorem hostAccess_inv (a : Access) {s : State} (h : s.Inv) :
    (∀ t, hostAccess a s = .next t → t.Inv) ∧ (∀ b t, hostAccess a s = .fault (.hostBusError b t) → t.Inv) := by
  rcases hostAccess_cases a s with ⟨off, _, _, _, e⟩ | ⟨off, _, v, _, _, e⟩ | ⟨_, e⟩
  · exact inv_of_next e (readReg_inv _ h)
  · exact inv_of_next e (writeEffect_inv (regAt off) v h)
  · rw [e]
    refine ⟨fun t ht => (by cases ht), fun b t ht => ?_⟩
    cases ht
    exact h

/-- A poll of WAIT keeps a state legal. -/
theorem waitPoll_inv (polls : Nat) {s : State} (h : s.Inv) : (waitPoll polls s).Inv := by
  rcases waitPoll_cases polls s with ⟨_, e⟩ | ⟨_, e⟩ <;> rw [e] <;> exact h

/-- Completion of a command leads to a legal state (R34). -/
theorem exec_inv {i : Instr} {s t : State} (h : s.Inv) (e : exec i s = .next t) : t.Inv := by
  obtain ⟨u, eu, status, pend, _⟩ := exec_completes i s
  obtain rfl := Host.Outcome.next.inj (eu.symm.trans e)
  obtain ⟨flags, score, _⟩ := h
  refine ⟨?_, exec_score_le e score, by simp [pend]⟩
  rw [status, pend]
  exact Status.complete_inv flags

/-- Settles O53: nothing is pending, no error is recorded and SCORE is 0. -/
theorem resetStateIsLegal : Obligations.ResetStateIsLegal := by
  unfold Obligations.ResetStateIsLegal
  refine ⟨⟨rfl, fun _ => rfl, ?_, ?_⟩, ?_, ?_⟩ <;> simp [State.reset, Status.reset]

/-- Settles O54, by the action that is next. -/
theorem stepsKeepTheStateLegal : Obligations.StepsKeepTheStateLegal := by
  intro s h
  have begun : s.beginStep.Inv := h
  rcases step_cases s with
    ⟨_, _, e⟩ | ⟨i, _, _, e⟩ | ⟨a, _, _, e⟩ | ⟨polls, _, _, e⟩ | ⟨_, _, e⟩
  · exact inv_of_next e begun
  · obtain ⟨u, eu, _⟩ := exec_completes i s.beginStep
    exact inv_of_next (e.trans eu) (exec_inv begun eu)
  · rw [e]
    exact hostAccess_inv a begun
  · exact inv_of_next e (waitPoll_inv polls begun)
  · exact inv_of_next e resetStateIsLegal

end Sys2Proof.Machine
end

section
/-! What a step does to DONE, ERR and ERRCODE (O20, O21). -/

namespace Sys2Proof.Machine

/-- Recording an error sets no DONE, and neither does any other effect of a write (R23). -/
theorem writeEffect_done (r : Reg) (v : Word) {s : State} (notDone : s.status.done = false) :
    (writeEffect r v s).status.done = false := by
  rcases writeEffect_flags r v s with ⟨_, e | ⟨c, e⟩ | ⟨_, e⟩⟩ | ⟨i, _, _, _, e⟩ <;> rw [e]
  · exact notDone
  · rw [Status.raise_done, notDone]
  · simp [Status.writeOneToClear, notDone]
  · rfl

/-- A write to STATUS with bit 2 clear leaves ERR and ERRCODE (R24, R25). -/
theorem Status.writeOneToClear_error {v : Word} (st : Status) (bit : v.getLsbD 2 = false) :
    (st.writeOneToClear v).err = st.err ∧ (st.writeOneToClear v).errcode = st.errcode := by
  simp only [Status.writeOneToClear, bit, Bool.false_eq_true, if_false, and_self]

/-- A recorded error stays through a write, unless the write clears it or a command is accepted (R24, R25, R206). -/
theorem writeEffect_error (r : Reg) (v : Word) {s : State} (err : s.status.err = true) :
    ((writeEffect r v s).status.err = true ∧ (writeEffect r v s).status.errcode = s.status.errcode) ∨
    (r = .status ∧ v.getLsbD 2 = true) ∨
    (∃ i, r = .cmd ∧ v = encode i ∧ s.status.busy = false ∧ (writeEffect r v s).pend = some i) := by
  rcases writeEffect_flags r v s with ⟨_, e | ⟨c, e⟩ | ⟨rfl, e⟩⟩ | ⟨i, rfl, idle, decoded, e⟩
  · exact .inl (by simp [e, err])
  · exact .inl (by simp [e, err, Status.raise_errcode])
  · rcases clears : v.getLsbD 2
    · rw [e]
      obtain ⟨keptErr, keptCode⟩ := Status.writeOneToClear_error s.status clears
      exact .inl ⟨keptErr.trans err, keptCode⟩
    · exact .inr (.inl ⟨rfl, rfl⟩)
  · exact .inr (.inr ⟨i, rfl, eq_encode_of_decode decoded, idle, by simp [e]⟩)

/-- A legal write names its register by the register's own offset (R20, R60). -/
theorem write_eq_of_wellFormed {off : BitVec 8} {w : Nat} {v : Word}
    (legal : (Access.write off w v).wellFormed = true) {r : Reg} (h : regAt off = r) (named : r ≠ .reserved) :
    Access.write off w v = .write (regOffset r) 32 v := by
  have aligned : off.toNat % 4 = 0 := Access.aligned_of_wellFormed legal
  have width : w = 32 := Access.width_of_wellFormed legal
  rw [← h, regOffset_regAt off aligned (h ▸ named), width]

/-- Settles O20, by the action that is next. -/
theorem recordedErrorStaysUntilCleared : Obligations.RecordedErrorStaysUntilCleared := by
  intro s t ht err
  rcases step_cases s with
    ⟨_, _, e⟩ | ⟨i, _, _, e⟩ | ⟨a, rest, next, e⟩ | ⟨polls, _, _, e⟩ | ⟨rest, next, _⟩
  · obtain rfl := Host.Outcome.next.inj (e.symm.trans ht)
    exact .inl ⟨err, rfl⟩
  · obtain ⟨u, eu, status, _⟩ := exec_completes i s.beginStep
    obtain rfl := Host.Outcome.next.inj (eu.symm.trans (e.symm.trans ht))
    exact .inl (by simp [status, err])
  · rcases hostAccess_cases a s.beginStep with ⟨off, _, _, _, ea⟩ | ⟨off, w, v, rfl, legal, ea⟩ | ⟨_, ea⟩
    · obtain rfl := Host.Outcome.next.inj (ea.symm.trans (e.symm.trans ht))
      obtain ⟨x, n, er⟩ := readReg_frame (regAt off) s.beginStep
      exact .inl (by simp [er, err])
    · obtain rfl := Host.Outcome.next.inj (ea.symm.trans (e.symm.trans ht))
      rcases writeEffect_error (regAt off) v (s := s.beginStep) err with
        kept | ⟨hr, bit⟩ | ⟨i, hr, rfl, idle, pend⟩
      · exact .inl kept
      · rw [write_eq_of_wellFormed legal hr (by decide)] at next
        exact .inr (.inl ⟨v, rest, next, bit⟩)
      · rw [write_eq_of_wellFormed legal hr (by decide)] at next
        exact .inr (.inr (.inl ⟨i, rest, next, idle, pend⟩))
    · rw [e, ea] at ht
      cases ht
  · obtain rfl := Host.Outcome.next.inj (e.symm.trans ht)
    rcases waitPoll_cases polls s.beginStep with ⟨_, ep⟩ | ⟨_, ep⟩ <;> exact .inl (by simp [ep, err])
  · exact .inr (.inr (.inr ⟨rest, next⟩))

/-- No HOST access sets DONE (R23). -/
theorem hostAccess_done {a : Access} {s t : State} (h : hostAccess a s = .next t) (notDone : s.status.done = false) :
    t.status.done = false := by
  rcases hostAccess_cases a s with ⟨off, _, _, _, e⟩ | ⟨off, _, v, _, _, e⟩ | ⟨_, e⟩
  · obtain rfl := Host.Outcome.next.inj (e.symm.trans h)
    obtain ⟨x, n, er⟩ := readReg_frame (regAt off) s
    simpa [er] using notDone
  · obtain rfl := Host.Outcome.next.inj (e.symm.trans h)
    exact writeEffect_done (regAt off) v notDone
  · rw [e] at h
    cases h

/-- Settles O21: of the actions, only the pending command's own step sets DONE. -/
theorem onlyCompletionSetsDone : Obligations.OnlyCompletionSetsDone := by
  intro s t ht notDone done
  have unchanged (h : t.status.done = false) : False := by simp [h] at done
  rcases step_cases s with
    ⟨_, _, e⟩ | ⟨i, turn, pend, e⟩ | ⟨a, _, _, e⟩ | ⟨polls, _, _, e⟩ | ⟨_, _, e⟩
  · obtain rfl := Host.Outcome.next.inj (e.symm.trans ht)
    exact (unchanged notDone).elim
  · obtain ⟨u, eu, status, none, _⟩ := exec_completes i s.beginStep
    obtain rfl := Host.Outcome.next.inj (eu.symm.trans (e.symm.trans ht))
    exact ⟨(engineNext_iff s).2 turn, by simp [pend], none, by simp [status]⟩
  · exact (unchanged (hostAccess_done (e.symm.trans ht) notDone)).elim
  · obtain rfl := Host.Outcome.next.inj (e.symm.trans ht)
    rcases waitPoll_cases polls s.beginStep with ⟨_, ep⟩ | ⟨_, ep⟩ <;>
      exact (unchanged (by simp [ep, notDone])).elim
  · obtain rfl := Host.Outcome.next.inj (e.symm.trans ht)
    exact (unchanged rfl).elim

end Sys2Proof.Machine
end

section
/-! A pending command under the HOST's accesses (O56). -/

namespace Sys2Proof.Machine

/-- From `s` to `t` nothing has changed that a pending command or its results depend on: its word, its operands, the
results before it, PEND and BUSY. -/
structure Undisturbed (s t : State) : Prop where
  cmd : t.cmd = s.cmd
  blkHi : t.blkHi = s.blkHi
  blkLo : t.blkLo = s.blkLo
  score : t.score = s.score
  pixIn : t.pixIn = s.pixIn
  pixOut : t.pixOut = s.pixOut
  pend : t.pend = s.pend
  busy : t.status.busy = s.status.busy

theorem Undisturbed.refl (s : State) : Undisturbed s s := by
  constructor <;> rfl

theorem Undisturbed.trans {s t u : State} (h : Undisturbed s t) (h' : Undisturbed t u) : Undisturbed s u where
  cmd := h'.cmd.trans h.cmd
  blkHi := h'.blkHi.trans h.blkHi
  blkLo := h'.blkLo.trans h.blkLo
  score := h'.score.trans h.score
  pixIn := h'.pixIn.trans h.pixIn
  pixOut := h'.pixOut.trans h.pixOut
  pend := h'.pend.trans h.pend
  busy := h'.busy.trans h.busy

/-- No legal access disturbs a pending command, and none touches the schedule (R29 to R33, R39, R84). -/
theorem hostAccess_undisturbed {a : Access} {s : State} (legal : a.wellFormed = true) (busy : s.status.busy = true) :
    ∃ t, hostAccess a s = .next t ∧ Undisturbed s t ∧ t.schedule = s.schedule := by
  rcases hostAccess_cases a s with ⟨off, _, _, _, e⟩ | ⟨off, _, v, _, _, e⟩ | ⟨illegal, _⟩
  · obtain ⟨x, n, er⟩ := readReg_frame (regAt off) s
    refine ⟨_, e, ?_, by simp [er]⟩
    rw [er]
    constructor <;> rfl
  · obtain ⟨st, ie, stillBusy, ew⟩ := writeEffect_of_busy (regAt off) v busy
    refine ⟨_, e, ?_, by simp [writeReg, ew]⟩
    rw [writeReg, ew]
    exact ⟨rfl, rfl, rfl, rfl, rfl, rfl, rfl, stillBusy.trans busy.symm⟩
  · simp [legal] at illegal

/-- The legal accesses before the ENGINE's turn are all performed and disturb nothing. -/
theorem run_accesses {accesses : List Access} (legal : ∀ a ∈ accesses, a.wellFormed = true) {s : State}
    (busy : s.status.busy = true) (schedule : s.schedule = accesses.map Action.host) :
    ∃ t, Sys2Proof.core.run accesses.length s = .next t ∧ Undisturbed s t ∧ t.schedule = [] := by
  induction accesses generalizing s with
  | nil => exact ⟨s, rfl, .refl s, schedule⟩
  | cons a rest ih =>
    obtain ⟨t, access, same, left⟩ :=
      hostAccess_undisturbed (s := s.beginStep) (legal a (by simp)) busy
    have first : step s = .next t := (step_of_host schedule).trans access
    obtain ⟨u, run, same', done⟩ := ih (s := t) (fun b hb => legal b (by simp [hb])) (same.busy.trans busy)
      (by simp [left, schedule])
    have begun : Undisturbed s s.beginStep := by constructor <;> rfl
    exact ⟨u, (run_succ Sys2Proof.core rest.length s t first).trans run, (begun.trans same).trans same', done⟩

/-- A command's results are the same at an undisturbed state (R140, R141, R181, R184). -/
theorem exec_results_of_undisturbed (i : Instr) {s t : State} (h : Undisturbed s t) :
    ∃ u w, exec i s = .next u ∧ exec i t = .next w ∧
      w.blkHi = u.blkHi ∧ w.blkLo = u.blkLo ∧ w.score = u.score ∧ w.pixOut = u.pixOut := by
  rcases instr_cases i with rfl | rfl | ⟨fs, cs, rfl⟩
  · exact ⟨_, _, exec_dec s, exec_dec t, by simp [h.blkHi, h.blkLo, h.score]⟩
  · exact ⟨_, _, exec_eval s, exec_eval t, by simp [h.blkHi, h.blkLo, h.pixIn]⟩
  · exact ⟨_, _, exec_enc fs cs s, exec_enc fs cs t, by simp [h.pixIn]⟩

/-- Settles O56: the accesses disturb nothing, and the ENGINE's step after them completes the command. -/
theorem pendingCommandIsUndisturbed : Obligations.PendingCommandIsUndisturbed := by
  intro s i accesses pend busy schedule legal
  obtain ⟨t, run, same, noMore⟩ := run_accesses legal busy schedule
  have begun : Undisturbed s t.beginStep := same.trans (by constructor <;> rfl)
  obtain ⟨u, w, eu, ew, blkHi, blkLo, score, pixOut⟩ := exec_results_of_undisturbed i begun
  obtain ⟨w', ew', status, none, cmd, _, pixIn, _⟩ := exec_completes i t.beginStep
  obtain rfl := Host.Outcome.next.inj (ew.symm.trans ew')
  have last : step t = .next w := (step_of_pending (.inl noMore) (same.pend.trans pend)).trans ew
  refine ⟨w, u, ?_, eu, blkHi, blkLo, score, pixOut, pixIn.trans begun.pixIn, cmd.trans begun.cmd, none, ?_, ?_⟩
  · exact (run_add Sys2Proof.core accesses.length 1 run).trans (run_succ Sys2Proof.core 0 t w last)
  · simp [status]
  · simp [status]

end Sys2Proof.Machine
end

section
/-! The registers of the window, access by access (O7 to O13, O15, O17). -/

namespace Sys2Proof.Machine

/-- Settles O7: both are operand registers, which take a write while idle and drop it while pending. -/
theorem recordRegistersAreWritableOnlyWhileIdle : Obligations.RecordRegistersAreWritableOnlyWhileIdle := by
  refine fun s v => ⟨fun idle => ⟨?_, ?_⟩, fun busy => ⟨?_, ?_⟩⟩
  · exact hostAccess_write_of_effect (r := .blkHi) (writeOperand_of_idle (State.setBlkHi v) idle)
  · exact hostAccess_write_of_effect (r := .blkLo) (writeOperand_of_idle (State.setBlkLo v) idle)
  · exact hostAccess_write_of_effect (r := .blkHi) (writeOperand_of_busy (State.setBlkHi v) busy)
  · exact hostAccess_write_of_effect (r := .blkLo) (writeOperand_of_busy (State.setBlkLo v) busy)

/-- A pixel register reads back the low 24 bits of the word written (R32). -/
theorem pixelWord_pixelOfWord (v : Word) : pixelWord (pixelOfWord v) = 0#8 ++ v.extractLsb' 0 24 := by
  apply BitVec.eq_of_getLsbD_eq
  intro i hi
  simp only [pixelWord, pixelOfWord, BitVec.getLsbD_append, BitVec.getLsbD_extractLsb']
  grind

/-- Settles O8: PIX_IN[i] is an operand register, and its store sets the one pixel. -/
theorem inputPixelsAreWritableOnlyWhileIdle : Obligations.InputPixelsAreWritableOnlyWhileIdle := by
  refine fun s i v => ⟨fun idle => ⟨s.pixIn.set i.val (pixelOfWord v) i.isLt, ?_, ?_, ?_, ?_⟩, fun busy => ?_⟩
  · exact hostAccess_write_of_effect (r := .pixIn i) (writeOperand_of_idle (State.setPixIn i v) idle)
  · simp [pixelOfWord]
  · intro k other
    simpa using Vector.getElem_set_ne i.isLt k.isLt fun h => other (Fin.ext h.symm)
  · simpa [regValue] using pixelWord_pixelOfWord v
  · exact hostAccess_write_of_effect (r := .pixIn i) (writeOperand_of_busy (State.setPixIn i v) busy)

/-- The places of the fields of STATUS and its hard-wired zeros (R22 to R26). -/
theorem Status.word_fields (st : Status) :
    st.word.getLsbD 3 = false ∧ st.word.extractLsb' 8 24 = 0#24 ∧ st.word.getLsbD 0 = st.busy ∧
      st.word.getLsbD 1 = st.done ∧ st.word.getLsbD 2 = st.err ∧ st.word.extractLsb' 4 4 = st.errcode := by
  obtain ⟨busy, done, err, code⟩ := st
  revert busy done err code
  decide

/-- Write-one-to-clear as a conjunction with the complement of the bit written (R23, R24). -/
theorem Status.writeOneToClear_eq (v : Word) (st : Status) :
    st.writeOneToClear v =
      { busy := st.busy
        done := st.done && !v.getLsbD 1
        err := st.err && !v.getLsbD 2
        errcode := if v.getLsbD 2 = true then 0#4 else st.errcode } := by
  unfold Status.writeOneToClear
  cases v.getLsbD 1 <;> cases v.getLsbD 2 <;> simp

/-- Settles O9, by the places of the fields and the conjunction form of write-one-to-clear. -/
theorem statusWriteClearsOnlyDoneAndErr : Obligations.StatusWriteClearsOnlyDoneAndErr := by
  intro s v
  refine ⟨?_, Status.word_fields s.status⟩
  rw [← Status.writeOneToClear_eq]
  exact hostAccess_write .status v s

/-- Settles O10, by the two values of IRQEN. -/
theorem ctrlHoldsOnlyTheInterruptEnable : Obligations.CtrlHoldsOnlyTheInterruptEnable := by
  refine ⟨fun s v => ⟨hostAccess_write .ctrl v s, ?_, ?_, ?_⟩, by decide⟩
  · simp only [regValue]
    cases s.irqen <;> rfl
  · simp [irq]
  · simp [irq]

/-- Settles O11: ID is a constant, no result register, and its write has no effect. -/
theorem identIsHardWired : Obligations.IdentIsHardWired := by
  refine ⟨fun s => ?_, fun s v => hostAccess_write .ident v s, fun s => rfl⟩
  refine (hostAccess_read .ident s).trans ?_
  rw [readReg_of_stored (.inr rfl)]
  rfl

/-- Settles O12: every such offset names the reserved register. -/
theorem reservedOffsetsReadZeroAndIgnoreWrites : Obligations.ReservedOffsetsReadZeroAndIgnoreWrites := by
  intro s off v aligned reserved
  rw [hostAccess_read_aligned off s aligned, hostAccess_write_aligned off v s aligned, regAt_of_reserved off reserved,
    readReg_of_stored (.inr rfl)]
  exact ⟨rfl, rfl⟩

/-- Settles O13: the effect of such a write is none, whatever BUSY is. -/
theorem resultRegistersIgnoreWrites : Obligations.ResultRegistersIgnoreWrites :=
  fun s v => ⟨hostAccess_write .score v s, fun i => hostAccess_write (.pixOut i) v s⟩

/-- A read of a register whose value is not free returns it and changes nothing (R60, R65). -/
theorem hostAccess_read_of_stored (r : Reg) (s : State) (h : s.status.busy = false ∨ isResult r = false) :
    hostAccess (.read (regOffset r) 32) s = .next { s with resp := some (.readData (regValue s r)) } := by
  rw [hostAccess_read, readReg_of_stored h]
  rfl

/-- Settles O15, by whether the value read is free. -/
theorem resultReadsAreUnspecifiedWhileBusy : Obligations.ResultReadsAreUnspecifiedWhileBusy := by
  intro s r
  simp only [← isResult_iff, Bool.not_eq_true]
  refine ⟨fun busy result => ?_, hostAccess_read_of_stored r s, hostAccess_read_of_stored .cmd s (.inr rfl),
    fun idle => ⟨hostAccess_read_of_stored .blkHi s (.inl idle), hostAccess_read_of_stored .blkLo s (.inl idle),
      hostAccess_read_of_stored .score s (.inl idle)⟩⟩
  rw [hostAccess_read, readReg_of_free busy result]
  rfl

/-- After reset every register but ID reads 0 (R230). -/
theorem regValue_reset (r : Reg) : regValue State.reset r = if r = .ident then identValue else 0#32 := by
  cases r with
  | pixIn i | pixOut i => simp [regValue, State.reset, pixelWord]
  | _ => rfl

/-- Settles O17: offsets and registers correspond, and each register has its reset value. -/
theorem windowIsLaidOutAndReset : Obligations.WindowIsLaidOutAndReset := by
  refine ⟨⟨?_, ?_, ?_, ?_, ?_, ?_, ?_⟩, fun i => ⟨regAt_offset (.pixIn i), regAt_offset (.pixOut i)⟩, fun off => ?_⟩
  · exact regAt_offset .cmd
  · exact regAt_offset .status
  · exact regAt_offset .ctrl
  · exact regAt_offset .ident
  · exact regAt_offset .blkHi
  · exact regAt_offset .blkLo
  · exact regAt_offset .score
  · simp only [regValue_reset, regAt_eq_ident_iff]
    rfl

end Sys2Proof.Machine
end

section
/-! What a step performs, and the way of a command word from CMD to the ENGINE (O50, O51). -/

namespace Sys2Proof.Machine

/-- Settles O50, by the three forms of the next action. -/
theorem stepPerformsTheNextAction : Obligations.StepPerformsTheNextAction := by
  refine fun s => ⟨fun turn i pend => step_of_pending turn pend, fun turn pend => step_of_idle turn pend, ?_⟩
  intro a rest next
  rw [step_of_host next, State.beginStep, next]
  rfl

/-- A 32-bit word numbered as the opcode table numbers it is itself. -/
theorem tableWord_toNat (v : Word) : tableWord 32 v.toNat = some v := by
  simp [tableWord, v.isLt, Nat.mod_eq_of_lt]

/-- A legal command word is placed as accepted, the ENGINE having the next turn (log entry 7). -/
theorem withFetchWord_of_command {v : Word} {i : Instr} (s : State) (h : decode v = .command i) :
    s.withFetchWord 32 v.toNat = placeCommand i v s := by
  simp [State.withFetchWord, tableWord_toNat, placeWord, h]

/-- Settles O51: both the write and the placing lead to the accepted state with the ENGINE next. -/
theorem writtenCommandRunsAtTheEnginesTurn : Obligations.WrittenCommandRunsAtTheEnginesTurn := by
  intro s v i decoded
  refine ⟨fun rest idle next => ⟨writeReg .cmd v s.beginStep, ?_, ?_⟩, ?_⟩
  · exact (step_of_host next).trans (hostAccess_write .cmd v s.beginStep)
  · have accepted : writeReg .cmd v s.beginStep = ((s.beginStep.setCmd v).accept i).respond .writeDone := by
      rw [writeReg, writeEffect, writeCmd_of_command (s := s.beginStep) idle decoded]
    have left : (writeReg .cmd v s.beginStep).schedule = .engine :: rest := by simp [accepted, next]
    rw [step_of_pending (.inr ⟨rest, left⟩) (i := i) (by simp [accepted]), State.beginStep, left, accepted]
    rfl
  · rw [withFetchWord_of_command s decoded]
    exact step_of_pending (.inr ⟨s.schedule, rfl⟩) rfl

end Sys2Proof.Machine
end

section
/-! The byte order of a record (O59). -/

namespace Sys2Proof.Machine

/-- A word is its four bytes, most significant first (R63). -/
theorem append_bytes (w : Word) :
    (w.extractLsb' 24 8 ++ w.extractLsb' 16 8 ++ w.extractLsb' 8 8 ++ w.extractLsb' 0 8 : BitVec 32) = w := by
  apply BitVec.eq_of_getLsbD_eq
  intro i hi
  simp only [BitVec.getLsbD_append, BitVec.getLsbD_extractLsb']
  grind

/-- The bytes of a word joined from four bytes are those bytes, most significant first (R63). -/
theorem extract_bytes (a b c d : Byte) :
    (a ++ b ++ c ++ d : BitVec 32).extractLsb' 24 8 = a ∧ (a ++ b ++ c ++ d : BitVec 32).extractLsb' 16 8 = b ∧
      (a ++ b ++ c ++ d : BitVec 32).extractLsb' 8 8 = c ∧ (a ++ b ++ c ++ d : BitVec 32).extractLsb' 0 8 = d := by
  refine ⟨?_, ?_, ?_, ?_⟩ <;>
    (apply BitVec.eq_of_getLsbD_eq
     intro i hi
     simp only [BitVec.getLsbD_append, BitVec.getLsbD_extractLsb']
     grind)

/-- Settles O59, word by word. -/
theorem recordBytesAreBigEndianWords : Obligations.RecordBytesAreBigEndianWords := by
  refine ⟨fun hi lo => Prod.ext (append_bytes hi) (append_bytes lo), fun b => ?_, fun b => ⟨?_, ?_⟩⟩
  · obtain ⟨h0, h1, h2, h3⟩ := extract_bytes b[0] b[1] b[2] b[3]
    obtain ⟨h4, h5, h6, h7⟩ := extract_bytes b[4] b[5] b[6] b[7]
    simp only [bytesOfRecord, recordOfBytes, h0, h1, h2, h3, h4, h5, h6, h7]
    ext i hi
    interval_cases i <;> rfl
  · exact (extract_bytes _ _ _ _).1
  · exact (extract_bytes _ _ _ _).1

end Sys2Proof.Machine
end

section
/-! Legal accesses and the schedule (O55): only an illegal access stops a step, and no step adds an access. -/

namespace Sys2Proof.Machine

/-- A schedule is legal when each of its HOST accesses is (R60); no other action can be illegal. -/
theorem legalSchedule_iff (s : State) :
    s.legalSchedule = true ↔ ∀ a, Action.host a ∈ s.schedule → a.wellFormed = true := by
  rw [State.legalSchedule, List.all_eq_true]
  refine ⟨fun legal a mem => legal _ mem, fun legal action mem => ?_⟩
  cases action with
  | host a => exact legal a mem
  | _ => rfl

/-- Staying in WAIT schedules further polls and the ENGINE's turn, and no other access of the HOST (R99). -/
theorem host_not_mem_afterPoll (polls : Nat) (a : Access) : Action.host a ∉ afterPoll polls := by
  cases polls <;> simp [afterPoll]

/-- A poll of WAIT leaves the HOST's accesses to come as they are (R99). -/
theorem host_mem_waitPoll (polls : Nat) (s : State) (a : Access) :
    Action.host a ∈ (waitPoll polls s).schedule ↔ Action.host a ∈ s.schedule := by
  rcases waitPoll_cases polls s with ⟨_, e⟩ | ⟨_, e⟩ <;> simp [e, host_not_mem_afterPoll]

/-- A legal access is performed and leaves the actions to come as they are (R60). -/
theorem hostAccess_of_wellFormed {a : Access} (s : State) (legal : a.wellFormed = true) :
    ∃ t, hostAccess a s = .next t ∧ t.schedule = s.schedule := by
  rcases hostAccess_cases a s with ⟨off, _, _, _, e⟩ | ⟨off, _, v, _, _, e⟩ | ⟨illegal, _⟩
  · obtain ⟨x, n, er⟩ := readReg_frame (regAt off) s
    exact ⟨_, e, by rw [er]⟩
  · exact ⟨_, e, writeEffect_schedule (regAt off) v s⟩
  · simp [legal] at illegal

/-- A step of a legal schedule answers a next state, and every HOST access still to come was to come before it. -/
theorem step_of_legalSchedule {s : State} (legal : s.legalSchedule = true) :
    ∃ t, step s = .next t ∧ ∀ a, Action.host a ∈ t.schedule → Action.host a ∈ s.schedule.tail := by
  rcases step_cases s with
    ⟨_, _, e⟩ | ⟨i, _, _, e⟩ | ⟨a, rest, next, e⟩ | ⟨polls, _, _, e⟩ | ⟨_, _, e⟩
  · exact ⟨_, e, fun _ => id⟩
  · obtain ⟨t, et, _, _, _, _, _, left, _⟩ := exec_completes i s.beginStep
    exact ⟨t, e.trans et, by simp [left]⟩
  · have wellFormed : a.wellFormed = true := (legalSchedule_iff s).1 legal a (by simp [next])
    obtain ⟨t, et, left⟩ := hostAccess_of_wellFormed s.beginStep wellFormed
    exact ⟨t, e.trans et, by simp [left]⟩
  · exact ⟨_, e, fun a => (host_mem_waitPoll polls s.beginStep a).1⟩
  · exact ⟨_, e, fun _ => id⟩

/-- A step of a legal schedule answers a next state with a legal schedule. -/
theorem step_keeps_legalSchedule {s : State} (legal : s.legalSchedule = true) :
    ∃ t, step s = .next t ∧ t.legalSchedule = true := by
  obtain ⟨t, et, left⟩ := step_of_legalSchedule legal
  exact ⟨t, et, (legalSchedule_iff t).2 fun a mem =>
    (legalSchedule_iff s).1 legal a (List.mem_of_mem_tail (left a mem))⟩

/-- Settles O55, by induction on the number of steps. -/
theorem legalRunsNeverStop : Obligations.LegalRunsNeverStop := by
  intro n
  induction n with
  | zero => exact fun s legal => ⟨s, rfl, legal⟩
  | succ n ih =>
    intro s legal
    obtain ⟨t, first, legal'⟩ := step_keeps_legalSchedule legal
    obtain ⟨u, run, legal''⟩ := ih t legal'
    exact ⟨u, (run_succ Sys2Proof.core n s t first).trans run, legal''⟩

end Sys2Proof.Machine
end

section
/-! A write made twice, illegal accesses, and the place of the window (O14, O16, O18). -/

namespace Sys2Proof.Machine

/-- CMD stands at 0x00 and at no other aligned offset (R20). -/
theorem eq_zero_of_regAt_eq_cmd {off : BitVec 8} (aligned : off.toNat % 4 = 0) (h : regAt off = .cmd) :
    off = 0x00#8 := by
  rw [← regOffset_regAt off aligned (by simp [h]), h]
  rfl

/-- Once an error is recorded, recording one again changes nothing (R202). -/
theorem Status.raise_raise (e e' : ErrorCause) (st : Status) : (st.raise e).raise e' = st.raise e := by
  rw [Status.raise, if_pos (Status.raise_err e st)]

/-- Bits cleared by a write to STATUS are not set by the same write again (R23, R24). -/
theorem Status.writeOneToClear_idem (v : Word) (st : Status) :
    (st.writeOneToClear v).writeOneToClear v = st.writeOneToClear v := by
  simp only [Status.writeOneToClear_eq, Bool.and_assoc, Bool.and_self, ite_self, apply_ite]
  split <;> rfl

/-- Storing the same pixel twice is storing it once (R32). -/
theorem State.setPixIn_idem (i : Fin 16) (v : Word) (s : State) :
    (s.setPixIn i v).setPixIn i v = s.setPixIn i v := by
  simp [State.setPixIn]

/-- A write to an operand register is idempotent when its store is: while pending the second drop records nothing
new (R65, R202). -/
theorem writeOperand_idem {store : State → State} {s : State} (status : (store s).status = s.status)
    (stored : store (store s) = store s) :
    writeOperand store (writeOperand store s) = writeOperand store s := by
  rcases hb : s.status.busy
  · rw [writeOperand_of_idle store hb, writeOperand_of_idle store (by rw [status, hb]), stored]
  · rw [writeOperand_of_busy store hb, writeOperand_of_busy store (by simp [hb])]
    simp only [State.raise, Status.raise_raise]

/-- The effect of a write to any register but CMD is idempotent, in every state (R65). -/
theorem writeEffect_idem {r : Reg} (v : Word) (s : State) (notCmd : r ≠ .cmd) :
    writeEffect r v (writeEffect r v s) = writeEffect r v s := by
  cases r with
  | cmd => exact absurd rfl notCmd
  | status => simp only [writeEffect, State.clearStatus, Status.writeOneToClear_idem]
  | blkHi => exact writeOperand_idem (store := State.setBlkHi v) rfl rfl
  | blkLo => exact writeOperand_idem (store := State.setBlkLo v) rfl rfl
  | pixIn i => exact writeOperand_idem rfl (State.setPixIn_idem i v s)
  | _ => rfl

/-- What a write to CMD does depends on BUSY and the word, not on what was driven on the bus before (log entry 2). -/
theorem writeCmd_respond (v : Word) (x : Response) (s : State) :
    writeCmd v (s.respond x) = (writeCmd v s).respond x := by
  rcases writeCmd_cases v s with ⟨busy, e⟩ | ⟨idle, i, decoded, e⟩ | ⟨idle, c, decoded, e⟩ <;> rw [e]
  · simp only [writeCmd, State.respond_status, busy, if_true]
    rfl
  · rw [writeCmd_of_command (s := s.respond x) idle decoded]
    rfl
  · simp only [writeCmd, State.respond_status, idle, decoded]
    rfl

/-- What a write to an operand register does depends on BUSY, not on what was driven on the bus before (log entry 2). -/
theorem writeOperand_respond {store : State → State} {x : Response} (s : State)
    (stored : store (s.respond x) = (store s).respond x) :
    writeOperand store (s.respond x) = (writeOperand store s).respond x := by
  rcases writeOperand_cases store s with ⟨busy, e⟩ | ⟨idle, e⟩ <;> rw [e]
  · exact writeOperand_of_busy store busy
  · exact (writeOperand_of_idle (s := s.respond x) store idle).trans stored

/-- The effect of a write does not depend on what was driven on the bus before (log entry 2). -/
theorem writeEffect_respond (r : Reg) (v : Word) (x : Response) (s : State) :
    writeEffect r v (s.respond x) = (writeEffect r v s).respond x := by
  cases r with
  | cmd => exact writeCmd_respond v x s
  | blkHi | blkLo | pixIn => exact writeOperand_respond s rfl
  | _ => rfl

/-- A write to any register but CMD is idempotent, in every state (R65). -/
theorem writeReg_idem {r : Reg} (v : Word) (s : State) (notCmd : r ≠ .cmd) :
    writeReg r v (writeReg r v s) = writeReg r v s := by
  simp only [writeReg, writeEffect_respond, writeEffect_idem v s notCmd]
  rfl

/-- Settles O14, by the register the offset names. -/
theorem writesOtherThanCmdAreIdempotent : Obligations.WritesOtherThanCmdAreIdempotent := by
  intro s off v aligned notZero
  have notCmd : regAt off ≠ .cmd := fun h => notZero (eq_zero_of_regAt_eq_cmd aligned h)
  refine ⟨writeReg (regAt off) v s, hostAccess_write_aligned off v s aligned, ?_⟩
  rw [hostAccess_write_aligned off v _ aligned, writeReg_idem v s notCmd]

/-- An access is illegal exactly when its width is not 32 or its offset is misaligned (R60, R61). -/
theorem Access.wellFormed_eq_false_iff (a : Access) :
    a.wellFormed = false ↔ a.width ≠ 32 ∨ a.offset.toNat % 4 ≠ 0 := by
  simp only [Access.wellFormed, Bool.and_eq_false_iff, beq_eq_false_iff_ne]

/-- An illegal access is the HOST's bus error, which changes no register (R61). -/
theorem hostAccess_of_illegal {a : Access} (s : State) (illegal : a.wellFormed = false) :
    hostAccess a s = .fault (.hostBusError a (s.respond (errorResponse a))) := by
  simp [hostAccess, illegal]

/-- Settles O16: such an access is illegal, whether it reads or writes. -/
theorem illegalAccessesFaultTheHost : Obligations.IllegalAccessesFaultTheHost := by
  intro s off w v h
  exact ⟨hostAccess_of_illegal s ((Access.wellFormed_eq_false_iff (.read off w)).2 h),
    hostAccess_of_illegal s ((Access.wellFormed_eq_false_iff (.write off w v)).2 h)⟩

/-- BASE is a multiple of 0x100 (R66). -/
theorem base_mod : Config.base % 0x100 = 0 :=
  Nat.mul_mod_right 0x100 Config.basePage

/-- Settles O18: since BASE is aligned, the window is a page, and the distance from BASE is the address's low byte. -/
theorem windowIsAnAlignedPage : Obligations.WindowIsAnAlignedPage := by
  intro address off
  have aligned := base_mod
  unfold offsetOfAddress
  split
  · next inside =>
    have page : address / 0x100 = Config.base / 0x100 := by omega
    have low : address - Config.base = address % 0x100 := by omega
    simp only [Option.some.injEq, low, page, true_and]
    rw [← BitVec.toNat_inj, BitVec.toNat_ofNat, Nat.mod_mod, eq_comm]
  · next outside =>
    have otherPage : address / 0x100 ≠ Config.base / 0x100 := by omega
    simp [otherPage]

end Sys2Proof.Machine
end

section
/-! The command word: encoding against decoding, the words that are commands, and why a word is rejected (O1, O2). -/

namespace Sys2Proof

/-! Fields and words -/

/-- Joining fields and cutting the word again gives the fields (R80). -/
theorem CmdFields.ofWord_word (f : CmdFields) : CmdFields.ofWord f.word = f := by
  obtain ⟨op, fsel, csel, reserved⟩ := f
  simp only [CmdFields.ofWord, CmdFields.word, CmdFields.mk.injEq]
  refine ⟨?_, ?_, ?_, ?_⟩ <;>
    (apply BitVec.eq_of_getLsbD_eq
     intro i hi
     simp only [BitVec.getLsbD_append, BitVec.getLsbD_extractLsb']
     grind)

/-- The fields of a command decode to it (R84 to R88). -/
theorem decodeFields_fields (i : Instr) : decodeFields i.fields = .command i := by
  cases i <;> rfl

/-- Fields decode to a command exactly when they are its fields (R84 to R88). -/
theorem decodeFields_eq_command_iff (f : CmdFields) (i : Instr) : decodeFields f = .command i ↔ f = i.fields :=
  ⟨eq_fields_of_decodeFields, fun h => h ▸ decodeFields_fields i⟩

/-- The word of a command decodes to it (R88). -/
theorem decode_encode (i : Instr) : decode (encode i) = .command i := by
  rw [decode, encode, CmdFields.ofWord_word, decodeFields_fields]

/-- A word decodes to a command exactly when it is its word (R88). -/
theorem decode_eq_command_iff (v : Word) (i : Instr) : decode v = .command i ↔ v = encode i :=
  ⟨eq_encode_of_decode, fun h => h ▸ decode_encode i⟩

/-! Well-formed fields -/

/-- FSEL that is not the reserved value 3 is AUTO, LR or TB (R82). -/
theorem FSel.exists_bits {b : BitVec 2} (h : b ≠ 3#2) : ∃ fs : FSel, b = fs.bits := by
  have values : b = 0#2 ∨ b = 1#2 ∨ b = 2#2 := by bv_omega
  rcases values with rfl | rfl | rfl
  · exact ⟨.auto, rfl⟩
  · exact ⟨.lr, rfl⟩
  · exact ⟨.tb, rfl⟩

/-- CSEL that is not the reserved value 3 is BEST, IND or DPREF (R83). -/
theorem CSel.exists_bits {b : BitVec 2} (h : b ≠ 3#2) : ∃ cs : CSel, b = cs.bits := by
  have values : b = 0#2 ∨ b = 1#2 ∨ b = 2#2 := by bv_omega
  rcases values with rfl | rfl | rfl
  · exact ⟨.best, rfl⟩
  · exact ⟨.ind, rfl⟩
  · exact ⟨.dpref, rfl⟩

/-- Well-formed fields, spelled out: those of DEC and EVAL with FSEL and CSEL 0, those of ENC with neither 3
(R81 to R86). -/
theorem CmdFields.wellFormed_iff (f : CmdFields) :
    f.wellFormed = true ↔ f.reserved = 0#24 ∧
      (((f.op = 1#4 ∨ f.op = 3#4) ∧ f.fsel = 0#2 ∧ f.csel = 0#2) ∨
        (f.op = 2#4 ∧ f.fsel ≠ 3#2 ∧ f.csel ≠ 3#2)) := by
  by_cases enc : f.op = 2#4
  · simp [CmdFields.wellFormed, enc]
  · simp [CmdFields.wellFormed, enc]
    tauto

/-- Every command's fields are well-formed (R88). -/
theorem Instr.fields_wellFormed (i : Instr) : i.fields.wellFormed = true := by
  cases i <;> rfl

/-- Fields are well-formed exactly when they are those of a command (R88). -/
theorem CmdFields.wellFormed_iff_exists_fields (f : CmdFields) : f.wellFormed = true ↔ ∃ i : Instr, f = i.fields := by
  refine ⟨fun h => ?_, fun ⟨i, e⟩ => e ▸ i.fields_wellFormed⟩
  rw [CmdFields.wellFormed_iff] at h
  obtain ⟨op, fsel, csel, reserved⟩ := f
  obtain ⟨rfl, ⟨rfl | rfl, rfl, rfl⟩ | ⟨rfl, legalF, legalC⟩⟩ := h
  · exact ⟨.dec, rfl⟩
  · exact ⟨.eval, rfl⟩
  · obtain ⟨fs, rfl⟩ := FSel.exists_bits legalF
    obtain ⟨cs, rfl⟩ := CSel.exists_bits legalC
    exact ⟨.enc fs cs, (Instr.fields_enc fs cs).symm⟩

/-- Rejected fields name BAD_OP for a reserved OP and BAD_FIELD for a legal one (R84 to R86). -/
theorem eq_of_decodeFields_rejected {f : CmdFields} {e : ErrorCause} (h : decodeFields f = .rejected e) :
    e = if f.op ∈ [1#4, 2#4, 3#4] then .badField else .badOp := by
  unfold decodeFields at h
  split at h
  · next reservedOp =>
    cases h
    simp [reservedOp]
  · next legalOp =>
    have legal : f.op ∈ [1#4, 2#4, 3#4] := by
      simp only [List.mem_cons, List.not_mem_nil, or_false]
      tauto
    rw [if_pos legal]
    repeat' split at h
    all_goals cases h
    all_goals rfl

/-- Fields that are not well-formed are rejected, with BAD_OP for a reserved OP and BAD_FIELD for a legal one
(R84 to R86). -/
theorem decodeFields_of_not_wellFormed {f : CmdFields} (h : ¬ f.wellFormed = true) :
    decodeFields f = .rejected (if f.op ∈ [1#4, 2#4, 3#4] then .badField else .badOp) := by
  rcases e : decodeFields f with i | c
  · exact absurd ((f.wellFormed_iff_exists_fields).2 ⟨i, eq_fields_of_decodeFields e⟩) h
  · rw [eq_of_decodeFields_rejected e]

/-- Settles O1: the words are those the commands encode to. -/
theorem tableWordsDecodeToTheirRows : Obligations.TableWordsDecodeToTheirRows :=
  ⟨decode_encode .dec, decode_encode .eval, decode_encode .encAutoBest, decode_encode .encLrBest,
    decode_encode .encTbBest, decode_encode .encAutoInd, decode_encode .encLrInd, decode_encode .encTbInd,
    decode_encode .encAutoDpref, decode_encode .encLrDpref, decode_encode .encTbDpref⟩

/-- Settles O2: the decoder inverts the encoder, on words and on fields. -/
theorem decodeAndEncodeAgree : Obligations.DecodeAndEncodeAgree := by
  refine ⟨decode_eq_command_iff, fun f => ?_, CmdFields.word_ofWord, CmdFields.ofWord_word⟩
  simp only [decodeFields_eq_command_iff]
  exact f.wellFormed_iff_exists_fields

end Sys2Proof
end

section
/-! HOST writes to CMD (O3 to O6). -/

namespace Sys2Proof.Machine

/-! The legal command words -/

/-- The check of R84 to R86 on the bits of a word written to CMD. -/
def LegalWord (v : Word) : Prop :=
  v.extractLsb' 8 24 = 0#24 ∧
    ((v.extractLsb' 0 4 ∈ [0x1#4, 0x3#4] ∧ v.extractLsb' 4 4 = 0#4) ∨
      (v.extractLsb' 0 4 = 0x2#4 ∧ v.extractLsb' 4 2 ≠ 3#2 ∧ v.extractLsb' 6 2 ≠ 3#2))

/-- The OP of a legal word is 1, 2 or 3 (R81). -/
theorem LegalWord.legalOp {v : Word} (h : LegalWord v) : v.extractLsb' 0 4 ∈ [0x1#4, 0x2#4, 0x3#4] := by
  obtain ⟨_, ⟨op, _⟩ | ⟨op, _⟩⟩ := h
  · simp only [List.mem_cons, List.not_mem_nil, or_false] at op ⊢
    tauto
  · simp [op]

/-- FSEL and CSEL are both 0 exactly when CMD[7:4] is 0 (R80, R85). -/
theorem selectors_eq_zero_iff (v : Word) :
    v.extractLsb' 4 2 = 0#2 ∧ v.extractLsb' 6 2 = 0#2 ↔ v.extractLsb' 4 4 = 0#4 := by
  have joined : v.extractLsb' 4 4 = v.extractLsb' 6 2 ++ v.extractLsb' 4 2 := by
    apply BitVec.eq_of_getLsbD_eq
    intro i hi
    simp only [BitVec.getLsbD_append, BitVec.getLsbD_extractLsb']
    grind
  rw [joined]
  generalize v.extractLsb' 4 2 = fsel
  generalize v.extractLsb' 6 2 = csel
  revert fsel csel
  decide

/-- A word is legal exactly when its fields are well-formed (R81 to R86). -/
theorem wellFormed_ofWord_iff (v : Word) : (CmdFields.ofWord v).wellFormed = true ↔ LegalWord v := by
  simp only [CmdFields.wellFormed_iff, CmdFields.ofWord, LegalWord, selectors_eq_zero_iff, List.mem_cons,
    List.not_mem_nil, or_false]

/-- A legal word decodes to the command of its fields (R87). -/
theorem decode_of_legal {v : Word} (h : LegalWord v) :
    ∃ i : Instr, CmdFields.ofWord v = i.fields ∧ decode v = .command i := by
  obtain ⟨i, e⟩ := (CmdFields.wellFormed_iff_exists_fields _).1 ((wellFormed_ofWord_iff v).2 h)
  exact ⟨i, e, (decodeFields_eq_command_iff _ i).2 e⟩

/-- Every other word is rejected, with BAD_OP for a reserved OP and BAD_FIELD for a legal one (R84 to R86). -/
theorem decode_of_illegal {v : Word} (h : ¬ LegalWord v) :
    decode v = .rejected (if v.extractLsb' 0 4 ∈ [0x1#4, 0x2#4, 0x3#4] then .badField else .badOp) :=
  decodeFields_of_not_wellFormed (mt (wellFormed_ofWord_iff v).1 h)

/-- The commands, in the order of the opcode table (R88). -/
def commands : List Instr :=
  [.dec, .eval, .encAutoBest, .encLrBest, .encTbBest, .encAutoInd, .encLrInd, .encTbInd, .encAutoDpref, .encLrDpref,
    .encTbDpref]

/-- `commands` leaves out none. -/
theorem mem_commands (i : Instr) : i ∈ commands := by
  cases i <;> decide

/-- The words of the commands (R88). -/
theorem map_encode_commands : commands.map encode =
    [0x01#32, 0x03#32, 0x02#32, 0x12#32, 0x22#32, 0x42#32, 0x52#32, 0x62#32, 0x82#32, 0x92#32, 0xA2#32] := rfl

/-- The words of the commands are exactly the words that decode to one (R88). -/
theorem mem_map_encode_iff (v : Word) : v ∈ commands.map encode ↔ ∃ i, decode v = .command i := by
  simp [decode_eq_command_iff, mem_commands, eq_comm]

/-! The write -/

/-- While BUSY = 1 a write to CMD is dropped with BUSY_CMD (R84). -/
theorem writeCmd_of_busy {s : State} (v : Word) (busy : s.status.busy = true) : writeCmd v s = s.raise .busyCmd := by
  simp [writeCmd, busy]

/-- While BUSY = 0 a word that is no command is stored, and its error raised (R84 to R87). -/
theorem writeCmd_of_rejected {s : State} {v : Word} {e : ErrorCause} (idle : s.status.busy = false)
    (h : decode v = .rejected e) : writeCmd v s = (s.setCmd v).raise e := by
  simp [writeCmd, idle, h]

/-- The HOST's write of a rejected word to CMD while BUSY = 0 (R84 to R87). -/
theorem hostAccess_cmd_of_rejected {s : State} {v : Word} {e : ErrorCause} (idle : s.status.busy = false)
    (h : decode v = .rejected e) :
    hostAccess (.write 0x00#8 32 v) s =
      .next { s with cmd := v, status := s.status.raise e, resp := some .writeDone } :=
  hostAccess_write_of_effect (r := .cmd) (writeCmd_of_rejected idle h)

/-- The HOST's write of a command's word to CMD while BUSY = 0 (R87). -/
theorem hostAccess_cmd_of_command {s : State} {v : Word} {i : Instr} (idle : s.status.busy = false)
    (h : decode v = .command i) :
    hostAccess (.write 0x00#8 32 v) s =
      .next { s with cmd := v, pend := some i, status := s.status.accept, resp := some .writeDone } :=
  hostAccess_write_of_effect (r := .cmd) (writeCmd_of_command idle h)

/-- The HOST's write to CMD while BUSY = 1 (R84). -/
theorem hostAccess_cmd_of_busy {s : State} (v : Word) (busy : s.status.busy = true) :
    hostAccess (.write 0x00#8 32 v) s =
      .next { s with status := s.status.raise .busyCmd, resp := some .writeDone } :=
  hostAccess_write_of_effect (r := .cmd) (writeCmd_of_busy v busy)

/-- Settles O4: a reserved OP makes the word illegal, whatever its other fields. -/
theorem cmdWriteFirstChecksBusyThenOp : Obligations.CmdWriteFirstChecksBusyThenOp := by
  refine fun s v => ⟨hostAccess_cmd_of_busy v, fun idle => ?_, fun idle reservedOp => ?_⟩
  · rcases decoded : decode v with i | e
    · exact ⟨_, hostAccess_cmd_of_command idle decoded, rfl⟩
    · exact ⟨_, hostAccess_cmd_of_rejected idle decoded, rfl⟩
  · have decoded := decode_of_illegal (mt LegalWord.legalOp reservedOp)
    rw [if_neg reservedOp] at decoded
    exact hostAccess_cmd_of_rejected idle decoded

/-- An illegal word with a legal OP, written while BUSY = 0, raises BAD_FIELD (R85, R86). -/
theorem hostAccess_cmd_of_badField {s : State} {v : Word} (idle : s.status.busy = false)
    (legalOp : v.extractLsb' 0 4 ∈ [0x1#4, 0x2#4, 0x3#4]) (illegal : ¬ LegalWord v) :
    hostAccess (.write 0x00#8 32 v) s =
      .next { s with cmd := v, status := s.status.raise .badField, resp := some .writeDone } := by
  have decoded := decode_of_illegal illegal
  rw [if_pos legalOp] at decoded
  exact hostAccess_cmd_of_rejected idle decoded

/-- Settles O5: each of the illegal fields makes the word illegal. -/
theorem cmdWriteRejectsIllegalFields : Obligations.CmdWriteRejectsIllegalFields := by
  refine fun s v idle => ⟨fun legalOp illegalField => ?_, fun enc _ reservedSel => ?_⟩
  · refine hostAccess_cmd_of_badField idle legalOp ?_
    rintro ⟨reserved, ⟨_, selectors⟩ | ⟨op, _⟩⟩
    · simp [reserved, selectors] at illegalField
    · simp [reserved, op] at illegalField
  · refine hostAccess_cmd_of_badField idle (by simp [enc]) ?_
    rintro ⟨_, ⟨op, _⟩ | ⟨_, fsel, csel⟩⟩
    · simp [enc] at op
    · exact reservedSel.elim fsel csel

/-- Settles O6, by whether the word is legal. -/
theorem cmdWriteAcceptsLegalCommands : Obligations.CmdWriteAcceptsLegalCommands := by
  refine fun s v idle => ⟨fun legal => ?_, fun illegal => ?_⟩
  · obtain ⟨i, fields, decoded⟩ := decode_of_legal legal
    refine ⟨i, ?_, hostAccess_cmd_of_command idle decoded⟩
    rw [Instr.triple, ← fields]
    rfl
  · exact ⟨_, hostAccess_cmd_of_rejected idle (decode_of_illegal illegal), rfl, Status.raise_busy _ _,
      Status.raise_done _ _, rfl, rfl, rfl, rfl, rfl⟩

/-- Settles O3: a word decodes to a command exactly when it is one of the eleven, and is otherwise rejected with code
1 or 2. -/
theorem exactlyElevenWordsStartACommand : Obligations.ExactlyElevenWordsStartACommand := by
  intro s v idle noError
  have starts := mem_map_encode_iff v
  rw [map_encode_commands] at starts
  by_cases legal : LegalWord v
  · obtain ⟨i, _, decoded⟩ := decode_of_legal legal
    exact ⟨_, hostAccess_cmd_of_command idle decoded, fun _ => ⟨rfl, rfl, rfl⟩,
      fun notListed => absurd (starts.2 ⟨i, decoded⟩) notListed⟩
  · have decoded := decode_of_illegal legal
    refine ⟨_, hostAccess_cmd_of_rejected idle decoded, fun listed => ?_, fun _ => ?_⟩
    · obtain ⟨i, command⟩ := starts.1 listed
      simp [decoded] at command
    · refine ⟨rfl, (Status.raise_busy _ _).trans idle, Status.raise_err _ _, ?_⟩
      simp only [Status.raise_errcode, noError, Bool.false_eq_true, if_false]
      split
      · exact .inr rfl
      · exact .inl rfl

end Sys2Proof.Machine
end

section
/-! The words of the pseudo-instructions and their expansions (O57). -/

namespace Sys2Proof.Machine

/-- `ENC <f>, <c>` writes the word of its command (R99, R140). -/
theorem encWord_eq_encode (f : FSel) (c : CSel) : encWord f c = encode (Instr.enc f c) := by
  cases f <;> cases c <;> rfl

/-- `LDPIX` writes the word that reads back as its pixel (R32, R99). -/
theorem ldpixWord_eq_pixelWord (r g b : Byte) : ldpixWord r g b = pixelWord { r := r, g := g, b := b } := by
  apply BitVec.eq_of_getLsbD_eq
  intro i hi
  simp only [ldpixWord, pixelWord, BitVec.getLsbD_append, BitVec.getLsbD_or, BitVec.getLsbD_shiftLeft,
    BitVec.getLsbD_setWidth, BitVec.getLsbD_zero]
  grind

/-- `LDPIX` expands to one write of its pixel's word (R99). -/
theorem expand_ldpix (polls : Nat) (i : Fin 16) (r g b : Byte) :
    (Pseudo.ldpix i r g b).expand polls =
      [.host (.write (BitVec.ofNat 8 (0x40 + 4 * i.val)) 32 (pixelWord { r := r, g := g, b := b }))] := by
  rw [← ldpixWord_eq_pixelWord]
  rfl

/-- `FILL` expands to a `LDPIX` of every pixel (R99). -/
theorem expand_fill (polls : Nat) (r g b : Byte) :
    (Pseudo.fill r g b).expand polls = (List.finRange 16).flatMap fun i => (Pseudo.ldpix i r g b).expand polls := by
  simp only [Pseudo.expand, Pseudo.accesses, List.map_map, List.map_cons, List.map_nil]
  exact List.map_eq_flatMap

/-- Settles O57: the expansions are the definition's own, up to the words of `ENC` and `LDPIX`. -/
theorem pseudoInstructionsExpand : Obligations.PseudoInstructionsExpand := by
  intro polls
  refine ⟨rfl, rfl, rfl, fun f c => ?_, rfl, fun _ _ => rfl, expand_ldpix polls, expand_fill polls, rfl,
    fun _ _ => rfl, fun _ => rfl, fun _ _ => rfl, fun _ => rfl, fun _ => rfl, rfl, fun _ _ => List.flatMap_cons⟩
  rw [← encWord_eq_encode]
  rfl

end Sys2Proof.Machine
end

section
/-! The word hi: what the encoder packs is what the decoder reads (O33). -/

namespace Sys2Proof.Machine

/-! The fields of a packed word -/

/-- Tables, DIFF and FLIP are read where they are packed, in both modes (R91, R151). -/
theorem packHi_tail (c : BitVec 24) (t1 t2 : BitVec 3) (diff flip : Bool) :
    recTable (packHi c t1 t2 diff flip) .one = t1 ∧ recTable (packHi c t1 t2 diff flip) .two = t2 ∧
      recDiff (packHi c t1 t2 diff flip) = diff ∧ recFlip (packHi c t1 t2 diff flip) = flip := by
  refine ⟨BitVec.eq_of_getLsbD_eq fun i hi => ?_, BitVec.eq_of_getLsbD_eq fun i hi => ?_, ?_, ?_⟩ <;>
    simp only [recTable, recDiff, recFlip, packHi, BitVec.getLsbD_extractLsb', BitVec.getLsbD_append,
      BitVec.getLsbD_ofBool] <;>
    grind

/-- A field of the color bits stands 8 places higher in hi (R97). -/
theorem extractLsb'_packHi (c : BitVec 24) (t1 t2 : BitVec 3) (diff flip : Bool) (start len : Nat) :
    (packHi c t1 t2 diff flip).extractLsb' (8 + start) len = c.extractLsb' start len := by
  apply BitVec.eq_of_getLsbD_eq
  intro i hi
  simp only [packHi, BitVec.getLsbD_extractLsb', BitVec.getLsbD_append]
  grind

/-- Three pairs of fields joined are cut apart again. -/
theorem extractLsb'_pairs {m n : Nat} (a b c : BitVec m) (a' b' c' : BitVec n) :
    let w := a ++ a' ++ b ++ b' ++ c ++ c'
    (w.extractLsb' (n + m + n + m + n) m = a ∧ w.extractLsb' (n + m + n) m = b ∧ w.extractLsb' n m = c) ∧
      w.extractLsb' (n + m + n + m) n = a' ∧ w.extractLsb' (n + m) n = b' ∧ w.extractLsb' 0 n = c' := by
  refine ⟨⟨?_, ?_, ?_⟩, ?_, ?_, ?_⟩ <;>
    (apply BitVec.eq_of_getLsbD_eq
     intro i hi
     simp only [BitVec.getLsbD_append, BitVec.getLsbD_extractLsb']
     grind)

/-- The color bits of a pair of quantized colors, channel by channel (R97). -/
def pairBits {m n : Nat} (p : Rgb m) (q : Rgb n) : BitVec (m + n + m + n + m + n) :=
  p.r ++ q.r ++ p.g ++ q.g ++ p.b ++ q.b

/-- The differential mode's color and deltas are read where they are packed (R93, R145). -/
theorem packHi_differential (p : Rgb 5) (d : Rgb 3) (t1 t2 : BitVec 3) (diff flip : Bool) :
    recColor5 (packHi (pairBits p d) t1 t2 diff flip) = p ∧ recDelta (packHi (pairBits p d) t1 t2 diff flip) = d := by
  have field := extractLsb'_packHi (pairBits p d) t1 t2 diff flip
  obtain ⟨⟨r, g, b⟩, dr, dg, db⟩ := extractLsb'_pairs p.r p.g p.b d.r d.g d.b
  exact ⟨congr (congrArg₂ Rgb.mk ((field 19 5).trans r) ((field 11 5).trans g)) ((field 3 5).trans b),
    congr (congrArg₂ Rgb.mk ((field 16 3).trans dr) ((field 8 3).trans dg)) ((field 0 3).trans db)⟩

/-- The individual mode's two colors are read where they are packed (R92, R146). -/
theorem packHi_individual (p q : Rgb 4) (t1 t2 : BitVec 3) (diff flip : Bool) :
    recColor4 (packHi (pairBits p q) t1 t2 diff flip) .one = p ∧
      recColor4 (packHi (pairBits p q) t1 t2 diff flip) .two = q := by
  have field := extractLsb'_packHi (pairBits p q) t1 t2 diff flip
  obtain ⟨⟨r, g, b⟩, r', g', b'⟩ := extractLsb'_pairs p.r p.g p.b q.r q.g q.b
  exact ⟨congr (congrArg₂ Rgb.mk ((field 20 4).trans r) ((field 12 4).trans g)) ((field 4 4).trans b),
    congr (congrArg₂ Rgb.mk ((field 16 4).trans r') ((field 8 4).trans g')) ((field 0 4).trans b')⟩

/-! The delta field -/

/-- The three-bit field of a delta that fits holds it (R96, R113). -/
theorem sdelta_ofInt {d : Int} (low : -4 ≤ d) (high : d ≤ 3) : sdelta (BitVec.ofInt 3 d) = d := by
  interval_cases d <;> rfl

/-- A delta that fits leads from the first color to the second, with no wrap (R114, R144, R145). -/
theorem applyDelta_deltaField {q1 q2 : BitVec 5} (fits : deltaFits q1 q2 = true) :
    applyDelta q1 (deltaField q1 q2) = q2 := by
  obtain ⟨low, high⟩ := of_decide_eq_true fits
  have sum : (q1.toNat : Int) + delta q1 q2 = q2.toNat := by
    unfold delta
    omega
  rw [applyDelta, deltaField, sdelta_ofInt low high, sum, BitVec.ofInt_natCast, BitVec.ofNat_toNat,
    BitVec.setWidth_eq]

/-- The delta fields of a differential candidate that exists lead to its second color (R144, R145). -/
theorem applyDelta_of_representable {P : Block} {flip : Bool} (h : representable P flip = true) :
    Rgb.map2 applyDelta (quantized5 P flip .one)
      (Rgb.map2 deltaField (quantized5 P flip .one) (quantized5 P flip .two)) = quantized5 P flip .two := by
  simp only [representable, Bool.and_eq_true] at h
  obtain ⟨⟨r, g⟩, b⟩ := h
  simp only [Rgb.map2, applyDelta_deltaField r, applyDelta_deltaField g, applyDelta_deltaField b]

/-! The base colors -/

/-- The base colors of a record in differential mode (R125). -/
theorem baseColor_of_diff {hi : Word} (h : recDiff hi = true) :
    baseColor hi .one = (recColor5 hi).map ext5 ∧
      baseColor hi .two = (Rgb.map2 applyDelta (recColor5 hi) (recDelta hi)).map ext5 := by
  simp [baseColor, h]

/-- The base colors of a record in individual mode (R124). -/
theorem baseColor_of_not_diff {hi : Word} (h : recDiff hi = false) (j : SubBlock) :
    baseColor hi j = (recColor4 hi j).map ext4 := by
  simp [baseColor, h]

/-- The base colors read from a packed differential candidate that exists (R125, R145). -/
theorem baseColor_differential {P : Block} {flip : Bool} (t1 t2 : BitVec 3) (h : representable P flip = true)
    (j : SubBlock) :
    baseColor (packHi (differentialColors P flip).bits t1 t2 true flip) j = (differentialColors P flip).base j := by
  obtain ⟨_, _, diff, _⟩ := packHi_tail (differentialColors P flip).bits t1 t2 true flip
  obtain ⟨color, deltas⟩ := packHi_differential (quantized5 P flip .one)
    (Rgb.map2 deltaField (quantized5 P flip .one) (quantized5 P flip .two)) t1 t2 true flip
  obtain ⟨first, second⟩ := baseColor_of_diff diff
  cases j with
  | one => exact first.trans (congrArg (Rgb.map ext5) color)
  | two =>
    have applied := (congrArg₂ (Rgb.map2 applyDelta) color deltas).trans (applyDelta_of_representable h)
    exact second.trans (congrArg (Rgb.map ext5) applied)

/-- The base colors read from a packed individual candidate (R124, R146). -/
theorem baseColor_individual (P : Block) (flip : Bool) (t1 t2 : BitVec 3) (j : SubBlock) :
    baseColor (packHi (individualColors P flip).bits t1 t2 false flip) j = (individualColors P flip).base j := by
  obtain ⟨_, _, diff, _⟩ := packHi_tail (individualColors P flip).bits t1 t2 false flip
  obtain ⟨first, second⟩ := packHi_individual (quantized4 P flip .one) (quantized4 P flip .two) t1 t2 false flip
  rw [baseColor_of_not_diff diff]
  cases j with
  | one => exact congrArg (Rgb.map ext4) first
  | two => exact congrArg (Rgb.map ext4) second

/-- Settles O33, mode by mode. -/
theorem packedColorsAreReadBack : Obligations.PackedColorsAreReadBack := by
  refine fun P flip m t1 t2 existing => ⟨?_, packHi_tail _ t1 t2 _ flip⟩
  cases m with
  | differential => exact baseColor_differential t1 t2 (existing rfl)
  | individual => exact baseColor_individual P flip t1 t2

end Sys2Proof.Machine
end

section
/-! The word lo: the sixteen selectors and their two halves of lo (O34). -/

namespace Sys2Proof.Machine

/-! The positions of the selectors -/

/-- The selectors take the positions 0 to 15 (R94, R122). -/
theorem selpos_lt (i : Fin 16) : selpos i < 16 := by
  revert i; decide

/-- No two pixels share a position (R94, R122). -/
theorem selpos_inj (i j : Fin 16) : selpos i = selpos j ↔ i = j := by
  revert i j; decide

/-- Every position is some pixel's (R94, R122). -/
theorem exists_selpos {k : Nat} (h : k < 16) : ∃ i, selpos i = k := by
  have positions : ∀ k : Fin 16, ∃ i, selpos i = k := by decide
  exact positions ⟨k, h⟩

/-- The two halves of lo share no bit (R94). -/
theorem selpos_ne_high (i j : Fin 16) : selpos i ≠ 16 + selpos j := by
  have := selpos_lt i
  omega

/-! Reading -/

/-- The two bits of a selector read from lo (R94). -/
theorem getLsbD_recSelector (lo : Word) (i : Fin 16) :
    (recSelector lo i).getLsbD 1 = lo.getLsbD (16 + selpos i) ∧
      (recSelector lo i).getLsbD 0 = lo.getLsbD (selpos i) := by
  simp only [recSelector, BitVec.getLsbD_append, BitVec.getLsbD_extractLsb']
  simp

/-! Packing -/

/-- The bits a selector sets in lo (R151). -/
theorem getLsbD_selectorBits (i : Fin 16) (s : BitVec 2) (n : Nat) :
    (selectorBits i s).getLsbD n = true ↔
      (n = 16 + selpos i ∧ s.getLsbD 1 = true) ∨ (n = selpos i ∧ s.getLsbD 0 = true) := by
  have := selpos_lt i
  simp only [selectorBits, BitVec.getLsbD_or, BitVec.getLsbD_shiftLeft, BitVec.getLsbD_setWidth,
    BitVec.getLsbD_ushiftRight, BitVec.getLsbD_and, BitVec.getLsbD_one]
  grind

/-- A bit of an OR over a list is set when it is set in the first word or in one of the others. -/
theorem getLsbD_foldl_or {α : Type} (l : List α) (f : α → Word) (lo : Word) (n : Nat) :
    (l.foldl (fun w x => w ||| f x) lo).getLsbD n = true ↔
      lo.getLsbD n = true ∨ ∃ x ∈ l, (f x).getLsbD n = true := by
  induction l generalizing lo with
  | nil => simp
  | cons x xs ih => simp [ih, or_assoc]

/-- A bit of lo is set when it is one of a selector's two places, and that bit of the selector is set (R151). -/
theorem getLsbD_packSelectors (s : Fin 16 → BitVec 2) (n : Nat) :
    (packSelectors s).getLsbD n = true ↔
      ∃ i, (n = 16 + selpos i ∧ (s i).getLsbD 1 = true) ∨ (n = selpos i ∧ (s i).getLsbD 0 = true) := by
  simp [packSelectors, getLsbD_foldl_or, getLsbD_selectorBits]

/-- The two bits of lo that carry the selector of pixel i, and no other pixel's (R151). -/
theorem getLsbD_packSelectors_selpos (s : Fin 16 → BitVec 2) (i : Fin 16) :
    (packSelectors s).getLsbD (16 + selpos i) = (s i).getLsbD 1 ∧
      (packSelectors s).getLsbD (selpos i) = (s i).getLsbD 0 := by
  constructor
  · rw [Bool.eq_iff_iff, getLsbD_packSelectors]
    simp [selpos_inj, (selpos_ne_high _ _).symm]
  · rw [Bool.eq_iff_iff, getLsbD_packSelectors]
    simp [selpos_inj, selpos_ne_high]

/-- Reading a selector gives the selector packed (R94, R151). -/
theorem recSelector_packSelectors (s : Fin 16 → BitVec 2) (i : Fin 16) : recSelector (packSelectors s) i = s i := by
  obtain ⟨readHigh, readLow⟩ := getLsbD_recSelector (packSelectors s) i
  obtain ⟨high, low⟩ := getLsbD_packSelectors_selpos s i
  apply BitVec.eq_of_getLsbD_eq
  intro k hk
  interval_cases k
  · exact readLow.trans low
  · exact readHigh.trans high

/-- Packing the selectors read from lo gives lo: every bit is one of some selector's (R94, R151). -/
theorem packSelectors_recSelector (lo : Word) : packSelectors (recSelector lo) = lo := by
  apply BitVec.eq_of_getLsbD_eq
  intro n hn
  rcases Nat.lt_or_ge n 16 with low | high
  · obtain ⟨i, rfl⟩ := exists_selpos low
    exact (getLsbD_packSelectors_selpos _ i).2.trans (getLsbD_recSelector lo i).2
  · obtain ⟨i, place⟩ := exists_selpos (k := n - 16) (by omega)
    obtain rfl : n = 16 + selpos i := by omega
    exact (getLsbD_packSelectors_selpos _ i).1.trans (getLsbD_recSelector lo i).1

/-- Settles O34: bit by bit, each bit of lo being one bit of one selector. -/
theorem selectorsRoundTrip : Obligations.SelectorsRoundTrip :=
  ⟨recSelector_packSelectors, packSelectors_recSelector, getLsbD_recSelector, getLsbD_packSelectors_selpos⟩

end Sys2Proof.Machine
end

section
/-! WAIT: its polls, and its end after completion or rejection (O58). -/

namespace Sys2Proof.Machine

/-! The steps a WAIT is made of -/

/-- What is to come after a poll that does not end WAIT (R99). -/
theorem afterPoll_eq (polls : Nat) :
    afterPoll polls = if polls = 0 then [.engine, .wait 0] else [.wait (polls - 1)] := by
  cases polls <;> rfl

/-- The HOST in WAIT polls STATUS (R99). -/
theorem step_of_wait {s : State} {polls : Nat} {rest : List Action} (next : s.schedule = .wait polls :: rest) :
    step s = .next (waitPoll polls s.beginStep) := by
  simp [step, nextAction, next]

/-- A poll that reads DONE or ERR ends WAIT (R99). -/
theorem step_of_wait_ends {s : State} {polls : Nat} {rest : List Action} (next : s.schedule = .wait polls :: rest)
    (ends : waitEnds s.status.word = true) :
    step s = .next { s with schedule := rest, resp := some (.readData s.status.word) } := by
  rcases waitPoll_cases polls s.beginStep with ⟨_, e⟩ | ⟨goesOn, _⟩
  · rw [step_of_wait next, e, State.beginStep, next]
    rfl
  · exact absurd ends (by simpa using goesOn)

/-- A poll that reads neither keeps the HOST in WAIT (R99). -/
theorem step_of_wait_goes_on {s : State} {polls : Nat} {rest : List Action} (next : s.schedule = .wait polls :: rest)
    (goesOn : waitEnds s.status.word = false) :
    step s = .next { s with schedule := afterPoll polls ++ rest, resp := some (.readData s.status.word) } := by
  rcases waitPoll_cases polls s.beginStep with ⟨ends, _⟩ | ⟨_, e⟩
  · exact absurd ends (by simpa using goesOn)
  · rw [step_of_wait next, e, State.beginStep, next]
    rfl

/-- A single read of STATUS drives its value (R22 to R26, R60). -/
theorem step_of_read_status {s : State} {rest : List Action} (next : s.schedule = .host (rd .status) :: rest) :
    step s = .next { s with schedule := rest, resp := some (.readData s.status.word) } := by
  rw [step_of_host next, rd, hostAccess_read_of_stored .status _ (.inr rfl), State.beginStep, next]
  rfl

/-- The ENGINE's step completes the pending command and sets DONE (R34). -/
theorem step_completes {s : State} {i : Instr} {rest : List Action} (pend : s.pend = some i)
    (next : s.schedule = .engine :: rest) :
    ∃ t, step s = .next t ∧ t.schedule = rest ∧ t.pend = none ∧ t.status = s.status.complete := by
  obtain ⟨t, completes, status, none, _, _, _, left, _⟩ := exec_completes i s.beginStep
  exact ⟨t, (step_of_pending (.inr ⟨rest, next⟩) pend).trans completes, by simp [left, next], none, status⟩

/-- After the write to CMD of a word that is no command ERR is set, whether the write was dropped or rejected
(R84 to R87). -/
theorem step_rejects {s : State} {v : Word} {e : ErrorCause} {rest : List Action} (rejected : decode v = .rejected e)
    (next : s.schedule = .host (wr .cmd v) :: rest) :
    ∃ t, step s = .next t ∧ t.schedule = rest ∧ t.status.err = true := by
  refine ⟨_, (step_of_host next).trans (hostAccess_write .cmd v s.beginStep), ?_, ?_⟩
  · simp [writeReg, writeEffect_schedule, next]
  · rcases writeCmd_cases v s.beginStep with ⟨_, w⟩ | ⟨_, i, command, _⟩ | ⟨_, c, _, w⟩
    · simp [writeReg, writeEffect, w]
    · simp [rejected] at command
    · simp [writeReg, writeEffect, w]

/-! When the value read ends WAIT -/

/-- The value of STATUS ends WAIT once a command has completed (R34, R99). -/
theorem waitEnds_complete (st : Status) : waitEnds st.complete.word = true := by
  simp [waitEnds_status]

/-- The value of STATUS ends WAIT while an error is recorded (R99). -/
theorem waitEnds_of_err {st : Status} (err : st.err = true) : waitEnds st.word = true := by
  simp [waitEnds_status, err]

/-- In a legal state with a command pending and no error recorded, WAIT goes on (R23, R34). -/
theorem waitEnds_of_pending {s : State} {i : Instr} (legal : s.Inv) (pend : s.pend = some i)
    (noError : s.status.err = false) : waitEnds s.status.word = false := by
  obtain ⟨⟨busy, done, _⟩, _⟩ := legal
  have notDone : s.status.done = false := by
    by_contra set
    simp [done (by simpa using set), pend] at busy
  simp [waitEnds_status, notDone, noError]

/-! The end of WAIT -/

/-- From `s` a WAIT ends within `bound` steps, `rest` being what is left to do; from a legal state with no error it
ends with the pending command complete (R35, R69, R99). -/
def WaitEndsWithin (bound : Nat) (rest : List Action) (s : State) : Prop :=
  ∃ (n : Nat) (t : State) (v : Word), n ≤ bound ∧ Sys2Proof.core.run n s = .next t ∧ t.schedule = rest ∧
    t.resp = some (.readData v) ∧ waitEnds v = true ∧
    (s.Inv → s.status.err = false → t.pend = none ∧ t.status.done = true)

/-- A WAIT that goes on to its next poll takes one step more to end. -/
theorem WaitEndsWithin.of_step {bound : Nat} {rest : List Action} {s t : State} (first : step s = .next t)
    (inv : s.Inv → t.Inv) (err : t.status.err = s.status.err) (h : WaitEndsWithin bound rest t) :
    WaitEndsWithin (bound + 1) rest s := by
  obtain ⟨n, u, v, le, run, left, resp, ends, complete⟩ := h
  exact ⟨n + 1, u, v, Nat.succ_le_succ le, (run_succ Sys2Proof.core n s t first).trans run, left, resp, ends,
    fun legal noError => complete (inv legal) (err.trans noError)⟩

/-- A poll that reads DONE or ERR is the last one; in a legal state with no error no pending command is left behind. -/
theorem waitEndsWithin_of_ends {s : State} {i : Instr} {polls bound : Nat} {rest : List Action}
    (pend : s.pend = some i) (next : s.schedule = .wait polls :: rest) (ends : waitEnds s.status.word = true)
    (positive : 1 ≤ bound) : WaitEndsWithin bound rest s := by
  refine ⟨1, _, _, positive, run_succ Sys2Proof.core 0 s _ (step_of_wait_ends next ends), rfl, rfl, ends,
    fun legal noError => ?_⟩
  simp [waitEnds_of_pending legal pend noError] at ends

/-- At the ENGINE's turn in a WAIT the pending command completes, and the next poll is the last one (R35). -/
theorem waitEndsWithin_of_engine {s : State} {i : Instr} {rest : List Action} (pend : s.pend = some i)
    (next : s.schedule = .engine :: .wait 0 :: rest) : WaitEndsWithin 2 rest s := by
  obtain ⟨t, completes, left, none, status⟩ := step_completes pend next
  have ends : waitEnds t.status.word = true := status ▸ waitEnds_complete s.status
  refine ⟨2, _, _, le_rfl, (run_succ Sys2Proof.core 1 s t completes).trans
    (run_succ Sys2Proof.core 0 t _ (step_of_wait_ends left ends)), rfl, rfl, ends, fun _ _ => ⟨none, ?_⟩⟩
  simp [status]

/-- With a command pending, a WAIT ends within `polls + 3` steps: its polls, the ENGINE's turn, and the poll after it
(R35, R69). -/
theorem waitEndsWithin_of_pending {i : Instr} {rest : List Action} (polls : Nat) {s : State} (pend : s.pend = some i)
    (next : s.schedule = .wait polls :: rest) : WaitEndsWithin (polls + 3) rest s := by
  induction polls generalizing s with
  | zero =>
    rcases ends : waitEnds s.status.word
    · exact .of_step (step_of_wait_goes_on next ends) id rfl (waitEndsWithin_of_engine (i := i) pend rfl)
    · exact waitEndsWithin_of_ends pend next ends (by omega)
  | succ polls ih =>
    rcases ends : waitEnds s.status.word
    · rw [Nat.add_right_comm]
      exact .of_step (step_of_wait_goes_on next ends) id rfl (ih pend rfl)
    · exact waitEndsWithin_of_ends pend next ends (by omega)

/-- Settles O58: an ENGINE's step sets DONE and a rejected word sets ERR, and each ends the WAIT or the read after it. -/
theorem waitEndsAfterCompletionOrRejection : Obligations.WaitEndsAfterCompletionOrRejection := by
  refine ⟨fun s polls rest next =>
      ⟨fun set => step_of_wait_ends next (Bool.or_eq_true_iff.2 set), fun notDone noError => ?_⟩,
    fun s i polls rest pend next => waitEndsWithin_of_pending polls pend next,
    fun s v e polls rest rejected next => ?_, fun s i rest pend next => ?_, fun s v e rest rejected next => ?_⟩
  · rw [← afterPoll_eq]
    exact step_of_wait_goes_on next (Bool.or_eq_false_iff.2 ⟨notDone, noError⟩)
  · obtain ⟨t, rejects, left, err⟩ := step_rejects rejected next
    have ends := waitEnds_of_err err
    exact ⟨t, _, _, rejects, step_of_wait_ends left ends, rfl, rfl, ends⟩
  · obtain ⟨t, completes, left, _, status⟩ := step_completes pend next
    exact ⟨t, _, _, completes, step_of_read_status left, rfl, status ▸ waitEnds_complete s.status⟩
  · obtain ⟨t, rejects, left, err⟩ := step_rejects rejected next
    exact ⟨t, _, _, rejects, step_of_read_status left, rfl, waitEnds_of_err err⟩

end Sys2Proof.Machine
end

section
/-! Color arithmetic: the expansions, the delta applier, the quantizers (O23 to O25). -/

namespace Sys2Proof.Machine

/-! The expansions -/

/-- ext4 repeats the nibble (R111). -/
theorem ext4_eq_append (c : BitVec 4) : ext4 c = c ++ c := by
  apply BitVec.eq_of_getLsbD_eq
  intro i hi
  simp only [ext4, BitVec.getLsbD_or, BitVec.getLsbD_shiftLeft, BitVec.getLsbD_setWidth, BitVec.getLsbD_append]
  grind

/-- A nibble repeated is 17 times the nibble, its upper copy standing for 16 times (R111). -/
theorem toNat_ext4 (c : BitVec 4) : (ext4 c).toNat = 17 * c.toNat := by
  rw [ext4_eq_append, BitVec.toNat_append, ← Nat.shiftLeft_add_eq_or_of_lt c.isLt, Nat.shiftLeft_eq]
  omega

/-- ext5 is the five bits followed by their top three (R112). -/
theorem ext5_eq_append (c : BitVec 5) : ext5 c = c ++ c.extractLsb' 2 3 := by
  apply BitVec.eq_of_getLsbD_eq
  intro i hi
  simp only [ext5, BitVec.getLsbD_or, BitVec.getLsbD_shiftLeft, BitVec.getLsbD_ushiftRight, BitVec.getLsbD_setWidth,
    BitVec.getLsbD_append, BitVec.getLsbD_extractLsb']
  grind

/-- Settles O23: replication places a copy of the bits above the bits repeated. -/
theorem expansionsReplicateBits : Obligations.ExpansionsReplicateBits :=
  ⟨fun c => ⟨toNat_ext4 c, ext4_eq_append c⟩, ext5_eq_append⟩

/-! The delta applier -/

/-- The delta is the two's complement value of its field: both test whether the field is at least half of 8 (R113). -/
theorem sdelta_eq_toInt (d : BitVec 3) : sdelta d = d.toInt := by
  rw [sdelta, BitVec.toInt_eq_toNat_cond]
  split <;> split <;> omega

/-- The delta is applied modulo 32 (R114). -/
theorem toNat_applyDelta (b : BitVec 5) (d : BitVec 3) :
    ((applyDelta b d).toNat : Int) = ((b.toNat : Int) + sdelta d) % 32 := by
  rw [applyDelta, BitVec.toNat_ofInt]
  exact Int.toNat_of_nonneg (Int.emod_nonneg _ (by decide))

/-- A delta of 0 leaves the color as it is (R114). -/
theorem applyDelta_zero (b : BitVec 5) : applyDelta b 0#3 = b := by
  have sum : (b.toNat : Int) + sdelta 0#3 = b.toNat := add_zero _
  rw [applyDelta, sum, BitVec.ofInt_natCast, BitVec.ofNat_toNat, BitVec.setWidth_eq]

/-- Settles O24: cutting the exact sum to 5 bits is its remainder modulo 32. -/
theorem deltaIsAppliedModulo32 : Obligations.DeltaIsAppliedModulo32 :=
  ⟨sdelta_eq_toInt, toNat_applyDelta⟩

/-! The quantizers -/

/-- div255 rounds n / 255 to the nearest integer, and no n below 2¹⁵ is half-way.  With n = 256a + b, a ≤ 127 and
b ≤ 255, the quotient is a + (a + b + 128) / 256, and a + b stays below the 383 at which this would round down a
fraction above a half (R115). -/
theorem div255_nearest {n : Nat} (h : n < 2 ^ 15) : 2 * ((255 * div255 n : Int) - n).natAbs < 255 := by
  simp only [div255, Nat.shiftRight_eq_div_pow]
  omega

/-- div255 takes 255 times a level to at most that level (R115). -/
theorem div255_le {n level : Nat} (h : n < 2 ^ 15) (bound : n ≤ 255 * level) : div255 n ≤ level := by
  have := div255_nearest h
  omega

/-- The 5-bit quantizer's value fits its 5 bits (R115). -/
theorem div255_31_lt (v : Byte) : div255 (31 * v.toNat) < 32 :=
  Nat.lt_succ_of_le (div255_le (by omega) (by omega))

/-- The 4-bit quantizer's value fits its 4 bits (R116). -/
theorem div255_15_lt (v : Byte) : div255 (15 * v.toNat) < 16 :=
  Nat.lt_succ_of_le (div255_le (by omega) (by omega))

/-- quant5 is div255 of 31 v, no bit of which is lost (R115). -/
theorem toNat_quant5 (v : Byte) : (quant5 v).toNat = div255 (31 * v.toNat) :=
  (BitVec.toNat_ofNat _ _).trans (Nat.mod_eq_of_lt (div255_31_lt v))

/-- quant4 is div255 of 15 v, no bit of which is lost (R116). -/
theorem toNat_quant4 (v : Byte) : (quant4 v).toNat = div255 (15 * v.toNat) :=
  (BitVec.toNat_ofNat _ _).trans (Nat.mod_eq_of_lt (div255_15_lt v))

/-- quant5 rounds 31 v / 255 to the nearest level (R115). -/
theorem quant5_nearest (v : Byte) : 2 * ((255 * (quant5 v).toNat : Int) - 31 * v.toNat).natAbs < 255 := by
  rw [toNat_quant5]
  exact div255_nearest (by omega)

/-- quant4 rounds 15 v / 255 to the nearest level (R116). -/
theorem quant4_nearest (v : Byte) : 2 * ((255 * (quant4 v).toNat : Int) - 15 * v.toNat).natAbs < 255 := by
  rw [toNat_quant4]
  exact div255_nearest (by omega)

/-- Settles O25: div255 rounds to the nearest level, and its value fits the level's bits. -/
theorem quantizersRoundToNearest : Obligations.QuantizersRoundToNearest := fun v =>
  ⟨rfl, div255_31_lt v, quant5_nearest v, rfl, div255_15_lt v, quant4_nearest v⟩

end Sys2Proof.Machine
end

section
/-! The modifier table, reconstruction, and the geometry of the block (O26 to O28). -/

namespace Sys2Proof.Machine

/-- Settles O26, by evaluating the table's 32 entries. -/
theorem modifierTableValues : Obligations.ModifierTableValues := by
  unfold Obligations.ModifierTableValues
  decide

/-- Clamping puts an integer into 0 to 255, which a byte holds without loss (R119). -/
theorem toNat_clamp8 (v : Int) : ((clamp8 v).toNat : Int) = max 0 (min 255 v) := by
  unfold clamp8
  split
  · next below => rw [min_eq_right (by omega), max_eq_left below.le]; rfl
  · split
    · next above => rw [min_eq_left above.le]; rfl
    · have inRange : v % ((2 ^ 8 : Nat) : Int) = v := Int.emod_eq_of_lt (by omega) (by omega)
      rw [BitVec.toNat_ofInt, inRange]
      omega

/-- Settles O27: recon clamps the exact sum, channel by channel. -/
theorem reconstructionAddsAndClamps : Obligations.ReconstructionAddsAndClamps := fun _ _ _ =>
  ⟨toNat_clamp8 _, toNat_clamp8 _, toNat_clamp8 _⟩

/-- Selector 0 adds the table's smaller magnitude to every channel (R118, R120). -/
theorem recon_selector_zero (c : Pixel) (t : BitVec 3) :
    recon c t 0#2 = c.map fun ch => clamp8 (ch.toNat + (modifierRow t).1) := rfl

/-- Settles O28, by evaluating the geometry at the 16 pixels. -/
theorem blockGeometry : Obligations.BlockGeometry :=
  ⟨by decide, by decide, by decide, by decide, by decide⟩

end Sys2Proof.Machine
end

section
/-! The fields of a record that decide a pixel (O29, O60). -/

namespace Sys2Proof.Machine

/-! Reading a pixel -/

/-- A field of one bit is that bit. -/
theorem extractLsb'_one_eq_ofBool {w : Nat} (v : BitVec w) (k : Nat) :
    v.extractLsb' k 1 = BitVec.ofBool (v.getLsbD k) := by
  apply BitVec.eq_of_getLsbD_eq
  intro i hi
  obtain rfl : i = 0 := by omega
  simp

/-- A selector is made of two bits of lo (R94). -/
theorem recSelector_eq (lo : Word) (i : Fin 16) :
    recSelector lo i = BitVec.ofBool (lo.getLsbD (16 + selpos i)) ++ BitVec.ofBool (lo.getLsbD (selpos i)) := by
  rw [recSelector, extractLsb'_one_eq_ofBool, extractLsb'_one_eq_ofBool]

/-- Pixel i of a decoded record (R127). -/
theorem decodeRecord_pixel (hi lo : Word) (i : Fin 16) :
    (decodeRecord hi lo)[i] =
      recon (baseColor hi (subblock i (recFlip hi))) (recTable hi (subblock i (recFlip hi))) (recSelector lo i) :=
  decodeRecord_getElem hi lo i.val i.isLt

/-- Settles O60, mode by mode. -/
theorem decodeReadsTheRecordFields : Obligations.DecodeReadsTheRecordFields := by
  refine fun hi => ⟨?_, ?_, rfl, rfl, fun lo i => ?_⟩
  · split
    · next diff => exact (baseColor_of_diff diff).1
    · next ind => exact baseColor_of_not_diff (Bool.eq_false_of_not_eq_true ind) .one
  · split
    · next diff => exact (baseColor_of_diff diff).2
    · next ind => exact baseColor_of_not_diff (Bool.eq_false_of_not_eq_true ind) .two
  · exact (decodeRecord_pixel hi lo i).trans (congrArg _ (recSelector_eq lo i))

/-! Flipping FLIP -/

/-- Bit 0 is the one bit that flipping FLIP changes (R91). -/
theorem getLsbD_xor_flip (hi : Word) (k : Nat) :
    (hi ^^^ 0x00000001#32).getLsbD k = (hi.getLsbD k ^^ decide (k = 0)) := by
  rw [BitVec.getLsbD_xor, BitVec.getLsbD_one]
  rfl

/-- Flipping FLIP changes no field of hi above bit 0. -/
theorem extractLsb'_xor_flip (hi : Word) {start : Nat} (above : 0 < start) (len : Nat) :
    (hi ^^^ 0x00000001#32).extractLsb' start len = hi.extractLsb' start len := by
  apply BitVec.eq_of_getLsbD_eq
  intro i _
  have other : start + i ≠ 0 := by omega
  rw [BitVec.getLsbD_extractLsb', BitVec.getLsbD_extractLsb', getLsbD_xor_flip, decide_eq_false other, Bool.xor_false]

/-- Flipping FLIP exchanges the two splits (R91). -/
theorem recFlip_xor_flip (hi : Word) : recFlip (hi ^^^ 0x00000001#32) = !recFlip hi :=
  (getLsbD_xor_flip hi 0).trans (Bool.xor_true _)

/-- Flipping FLIP leaves the two tables (R91). -/
theorem recTable_xor_flip (hi : Word) (j : SubBlock) : recTable (hi ^^^ 0x00000001#32) j = recTable hi j := by
  cases j <;> exact extractLsb'_xor_flip hi (by decide) 3

/-- Flipping FLIP leaves the two base colors (R124 to R126). -/
theorem baseColor_xor_flip (hi : Word) (j : SubBlock) : baseColor (hi ^^^ 0x00000001#32) j = baseColor hi j := by
  have diff : recDiff (hi ^^^ 0x00000001#32) = recDiff hi := (getLsbD_xor_flip hi 1).trans (Bool.xor_false _)
  have color4 (j : SubBlock) : recColor4 (hi ^^^ 0x00000001#32) j = recColor4 hi j := by
    cases j <;> simp only [recColor4, extractLsb'_xor_flip hi, Nat.ofNat_pos]
  have color5 : recColor5 (hi ^^^ 0x00000001#32) = recColor5 hi := by
    simp only [recColor5, extractLsb'_xor_flip hi, Nat.ofNat_pos]
  have deltas : recDelta (hi ^^^ 0x00000001#32) = recDelta hi := by
    simp only [recDelta, extractLsb'_xor_flip hi, Nat.ofNat_pos]
  simp only [baseColor, diff, color4, color5, deltas]

/-! What a pixel depends on -/

/-- Pixels of one hi are equal when their selectors are. -/
theorem decodeRecord_congr {hi lo lo' : Word} {i : Fin 16} (h : recSelector lo i = recSelector lo' i) :
    (decodeRecord hi lo)[i] = (decodeRecord hi lo')[i] := by
  rw [decodeRecord_pixel, decodeRecord_pixel, h]

/-- With lo = 0 every selector is 0 (R94). -/
theorem recSelector_zero (i : Fin 16) : recSelector 0x00000000#32 i = 0#2 := by
  simp [recSelector_eq]

/-- In differential mode with every delta 0 both base colors are the one the record holds (R125). -/
theorem baseColor_of_delta_zero {hi : Word} (diff : recDiff hi = true)
    (zero : recDelta hi = { r := 0#3, g := 0#3, b := 0#3 }) : baseColor hi .one = baseColor hi .two := by
  obtain ⟨one, two⟩ := baseColor_of_diff diff
  have unchanged : Rgb.map2 applyDelta (recColor5 hi) (recDelta hi) = recColor5 hi := by
    simp only [zero, Rgb.map2, applyDelta_zero]
  rw [one, two, unchanged]

/-- Settles O29: hi and the selector decide a pixel, and FLIP decides only its sub-block. -/
theorem decodedPixelDependencies : Obligations.DecodedPixelDependencies := by
  refine ⟨fun hi lo lo' i low high => decodeRecord_congr ?_, fun hi lo i => ?_, fun hi i => ?_,
    fun hi => baseColor_of_delta_zero⟩
  · rw [recSelector_eq, recSelector_eq, low, high]
  · rw [decodeRecord_pixel, recFlip_xor_flip, baseColor_xor_flip, recTable_xor_flip]
  · rw [decodeRecord_pixel, recSelector_zero, recon_selector_zero]

end Sys2Proof.Machine
end

section
/-! The error measure and the block score (O30). -/

namespace Sys2Proof.Machine

/-- The square of a difference as an integer (R129). -/
theorem sqDiff_cast (a b : Byte) : (sqDiff a b : Int) = ((a.toNat : Int) - b.toNat) ^ 2 := by
  rw [sqDiff, Nat.cast_pow, Int.natAbs_pow_two]

/-- The error of a pixel as an integer (R129). -/
theorem err_cast (p q : Pixel) :
    (err p q : Int) = 3 * ((p.r.toNat : Int) - q.r.toNat) ^ 2 + 6 * ((p.g.toNat : Int) - q.g.toNat) ^ 2
      + ((p.b.toNat : Int) - q.b.toNat) ^ 2 := by
  simp only [err, Nat.cast_add, Nat.cast_mul, Nat.cast_ofNat, sqDiff_cast]

/-- The block score is the sum of the errors of the 16 pixels (R129). -/
theorem blockScore_eq_sum (P Q : Block) : blockScore P Q = ∑ i : Fin 16, err P[i] Q[i] :=
  (Fin.sum_univ_def _).symm

/-- Settles O30, the bounds coming from the largest square, 255². -/
theorem errorMeasureAndItsBounds : Obligations.ErrorMeasureAndItsBounds :=
  ⟨err_cast, err_le, blockScore_eq_sum, blockScore_le⟩

end Sys2Proof.Machine
end

section
/-! SUPPORT. The first least element of a list (R9, R152), and the least of two lists joined. -/

namespace Sys2Proof.Machine

section FirstLeast

variable {α : Type} {f : α → Nat} {l l' : List α} {a x m : α}

/-- `m` is the first of the elements of `l` at which `f` is least: `f` is greater before it and not less after it
(R9, R152). -/
def IsFirstLeast (f : α → Nat) (l : List α) (m : α) : Prop :=
  ∃ before after : List α, l = before ++ m :: after ∧ (∀ x ∈ before, f m < f x) ∧ ∀ x ∈ after, f m ≤ f x

/-- A greater element put in front changes nothing. -/
theorem IsFirstLeast.cons (h : IsFirstLeast f l m) (greater : f m < f a) : IsFirstLeast f (a :: l) m := by
  obtain ⟨before, after, rfl, less, least⟩ := h
  exact ⟨a :: before, after, rfl, List.forall_mem_cons.2 ⟨greater, less⟩, least⟩

/-- An element not less than the head, put right after the head, changes nothing. -/
theorem IsFirstLeast.insert (h : IsFirstLeast f (a :: l) m) (notLess : f a ≤ f x) :
    IsFirstLeast f (a :: x :: l) m := by
  obtain ⟨_ | ⟨b, before⟩, after, split, less, least⟩ := h
  · obtain ⟨rfl, rfl⟩ := List.cons.inj split
    exact ⟨[], x :: l, rfl, less, List.forall_mem_cons.2 ⟨notLess, least⟩⟩
  · obtain ⟨rfl, rfl⟩ := List.cons.inj split
    obtain ⟨head, tail⟩ := List.forall_mem_cons.1 less
    exact ⟨a :: x :: before, after, rfl,
      List.forall_mem_cons.2 ⟨head, List.forall_mem_cons.2 ⟨head.trans_le notLess, tail⟩⟩, least⟩

/-- The element chosen is the first of the least (R9). -/
theorem argminFrom_isFirstLeast (f : α → Nat) (a : α) (l : List α) : IsFirstLeast f (a :: l) (argminFrom f a l) := by
  induction l generalizing a with
  | nil => exact ⟨[], [], by simp [argminFrom]⟩
  | cons x xs ih =>
    unfold argminFrom
    split
    · next less => exact (ih x).cons ((argminFrom_le f x xs x List.mem_cons_self).trans_lt less)
    · next notLess => exact (ih a).insert (not_lt.1 notLess)

/-- In a list sorted by a key, every element of a smaller key than the first least is greater. -/
theorem IsFirstLeast.lt_of_sorted {key : α → Nat} (h : IsFirstLeast f l m)
    (sorted : l.Pairwise fun y z => key y < key z) (mem : x ∈ l) (earlier : key x < key m) : f m < f x := by
  obtain ⟨before, after, rfl, less, _⟩ := h
  have later := (List.pairwise_cons.1 (List.pairwise_append.1 sorted).2.1).1
  rcases List.mem_append.1 mem with inBefore | inRest
  · exact less x inBefore
  · rcases List.mem_cons.1 inRest with rfl | inAfter
    · exact absurd earlier (lt_irrefl _)
    · exact absurd earlier (later x inAfter).not_gt

/-- The search goes on from the element found so far. -/
theorem argminFrom_append (f : α → Nat) (a : α) (l l' : List α) :
    argminFrom f a (l ++ l') = argminFrom f (argminFrom f a l) l' := by
  induction l generalizing a with
  | nil => rfl
  | cons x xs ih => simp only [List.cons_append, argminFrom, apply_ite (argminFrom f · l'), ih]

/-- The element found so far gives way exactly when the rest of the list has a lesser one. -/
theorem argminFrom_cons (f : α → Nat) (a b : α) (l : List α) :
    argminFrom f a (b :: l) = if f (argminFrom f b l) < f a then argminFrom f b l else a := by
  induction l generalizing a b with
  | nil => rfl
  | cons c l ih =>
    rw [argminFrom]
    split
    · next less => rw [if_pos ((argminFrom_le f b (c :: l) b List.mem_cons_self).trans_lt less)]
    · next notLess =>
      rw [ih a c, ih b c]
      grind

end FirstLeast

/-- EncodeBlock's choice is the first least of a list that is not empty (R152). -/
theorem keepLeast_isFirstLeast {l : List Candidate} (ne : l ≠ []) :
    IsFirstLeast Candidate.score l (keepLeast l) := by
  cases l with
  | nil => exact absurd rfl ne
  | cons c cs => exact argminFrom_isFirstLeast Candidate.score c cs

/-- Of two candidates the first is kept unless the second is strictly less (R152). -/
theorem keepLeast_pair (c d : Candidate) : keepLeast [c, d] = if c.score ≤ d.score then c else d := by
  simp only [keepLeast, argminFrom, ← not_lt, ite_not]

/-- Of two lists joined, the second one's choice is kept exactly when it is strictly less (R152). -/
theorem keepLeast_append {l l' : List Candidate} (ne : l ≠ []) (ne' : l' ≠ []) :
    keepLeast (l ++ l') = if (keepLeast l').score < (keepLeast l).score then keepLeast l' else keepLeast l := by
  cases l with
  | nil => exact absurd rfl ne
  | cons c cs =>
    cases l' with
    | nil => exact absurd rfl ne'
    | cons d ds => exact (argminFrom_append _ c cs (d :: ds)).trans (argminFrom_cons _ _ d ds)

end Sys2Proof.Machine
end

section
/-! The averages, and a candidate's record and score (O31, O32). -/

namespace Sys2Proof.Machine

/-! The averages -/

/-- A channel's average is the mean of the eight pixels rounded half up: (8 × 255 + 4) / 8 still fits 8 bits (R143). -/
theorem toNat_channelAvg (P : Block) (flip : Bool) (j : SubBlock) (channel : Pixel → Byte) :
    (channelAvg P flip j channel).toNat = (((members flip j).map fun i => (channel P[i]).toNat).sum + 4) / 8 := by
  have bound := sum_map_le (members flip j) (fun i => (channel P[i]).toNat) 255 fun i => by omega
  rw [members_length] at bound
  rw [channelAvg, BitVec.toNat_ofNat, Nat.shiftRight_eq_div_pow]
  exact Nat.mod_eq_of_lt (by omega)

/-- Settles O31, channel by channel. -/
theorem averagesAreRoundedMeans : Obligations.AveragesAreRoundedMeans := fun P flip j =>
  ⟨toNat_channelAvg P flip j (·.r), toNat_channelAvg P flip j (·.g), toNat_channelAvg P flip j (·.b)⟩

/-! The word hi in shifted fields -/

/-- A delta fits when it is in −4 to 3 (R144). -/
theorem deltaFits_iff (q1 q2 : BitVec 5) :
    deltaFits q1 q2 = true ↔ -4 ≤ (q2.toNat : Int) - q1.toNat ∧ (q2.toNat : Int) - q1.toNat ≤ 3 :=
  decide_eq_true_iff

/-- The differential candidate exists when the delta of every channel fits (R144). -/
theorem representable_iff (P : Block) (flip : Bool) :
    representable P flip = true ↔
      deltaFits (quantized5 P flip .one).r (quantized5 P flip .two).r = true ∧
      deltaFits (quantized5 P flip .one).g (quantized5 P flip .two).g = true ∧
      deltaFits (quantized5 P flip .one).b (quantized5 P flip .two).b = true := by
  simp only [representable, Bool.and_eq_true, and_assoc]

/-- Two fields joined are the OR of the two, the upper one shifted past the lower one. -/
theorem setWidth_append_eq_or {m n : Nat} (w : Nat) (x : BitVec m) (y : BitVec n) :
    (x ++ y).setWidth w = (x.setWidth w <<< n) ||| y.setWidth w := by
  apply BitVec.eq_of_getLsbD_eq
  intro i hi
  simp only [BitVec.getLsbD_or, BitVec.getLsbD_shiftLeft, BitVec.getLsbD_setWidth, BitVec.getLsbD_append]
  grind

/-- Two fields joined and shifted are the OR of the two, each shifted into its place. -/
theorem setWidth_append_shiftLeft {m n : Nat} (w k : Nat) (x : BitVec m) (y : BitVec n) :
    (x ++ y).setWidth w <<< k = (x.setWidth w <<< (k + n)) ||| (y.setWidth w <<< k) := by
  rw [setWidth_append_eq_or, BitVec.shiftLeft_or_distrib, ← BitVec.shiftLeft_add, Nat.add_comm]

/-- The word hi as the OR of its color bits, tables, DIFF and FLIP, each shifted into its place (R151). -/
theorem packHi_eq_or (c : BitVec 24) (t1 t2 : BitVec 3) (diff flip : Bool) :
    packHi c t1 t2 diff flip = (c.setWidth 32 <<< 8) ||| (t1.setWidth 32 <<< 5) ||| (t2.setWidth 32 <<< 2) |||
      ((BitVec.ofBool diff).setWidth 32 <<< 1) ||| (BitVec.ofBool flip).setWidth 32 := by
  rw [← BitVec.setWidth_eq (packHi c t1 t2 diff flip)]
  exact (setWidth_append_eq_or 32 _ _).trans
    (by rw [setWidth_append_shiftLeft, setWidth_append_shiftLeft, setWidth_append_shiftLeft])

/-- Color bits of three pairs of fields, each shifted 8 places into hi (R145, R146). -/
theorem pairBits_shiftLeft {m n : Nat} (p : Rgb m) (q : Rgb n) :
    (pairBits p q).setWidth 32 <<< 8 =
      (p.r.setWidth 32 <<< (8 + n + m + n + m + n)) ||| (q.r.setWidth 32 <<< (8 + n + m + n + m)) |||
      (p.g.setWidth 32 <<< (8 + n + m + n)) ||| (q.g.setWidth 32 <<< (8 + n + m)) |||
      (p.b.setWidth 32 <<< (8 + n)) ||| (q.b.setWidth 32 <<< 8) := by
  simp only [pairBits, setWidth_append_shiftLeft]

/-- The word hi of a differential candidate (R145, R151). -/
theorem packHi_differentialColors (P : Block) (flip : Bool) (t1 t2 : BitVec 3) :
    let q1 := quantized5 P flip .one
    let q2 := quantized5 P flip .two
    packHi (differentialColors P flip).bits t1 t2 true flip =
      (q1.r.setWidth 32 <<< 27) ||| ((deltaField q1.r q2.r).setWidth 32 <<< 24) |||
      (q1.g.setWidth 32 <<< 19) ||| ((deltaField q1.g q2.g).setWidth 32 <<< 16) |||
      (q1.b.setWidth 32 <<< 11) ||| ((deltaField q1.b q2.b).setWidth 32 <<< 8) |||
      (t1.setWidth 32 <<< 5) ||| (t2.setWidth 32 <<< 2) ||| (1#32 <<< 1) ||| (BitVec.ofBool flip).setWidth 32 := by
  intro q1 q2
  rw [packHi_eq_or]
  have bits := pairBits_shiftLeft q1 (Rgb.map2 deltaField q1 q2)
  exact congrArg (· ||| (t1.setWidth 32 <<< 5) ||| (t2.setWidth 32 <<< 2) ||| (1#32 <<< 1) |||
    (BitVec.ofBool flip).setWidth 32) bits

/-- The word hi of an individual candidate (R146, R151). -/
theorem packHi_individualColors (P : Block) (flip : Bool) (t1 t2 : BitVec 3) :
    let n1 := quantized4 P flip .one
    let n2 := quantized4 P flip .two
    packHi (individualColors P flip).bits t1 t2 false flip =
      (n1.r.setWidth 32 <<< 28) ||| (n2.r.setWidth 32 <<< 24) |||
      (n1.g.setWidth 32 <<< 20) ||| (n2.g.setWidth 32 <<< 16) |||
      (n1.b.setWidth 32 <<< 12) ||| (n2.b.setWidth 32 <<< 8) |||
      (t1.setWidth 32 <<< 5) ||| (t2.setWidth 32 <<< 2) ||| (BitVec.ofBool flip).setWidth 32 := by
  intro n1 n2
  have noDiff : (BitVec.ofBool false).setWidth 32 <<< 1 = 0#32 := rfl
  rw [packHi_eq_or, noDiff, BitVec.or_zero]
  exact congrArg (· ||| (t1.setWidth 32 <<< 5) ||| (t2.setWidth 32 <<< 2) ||| (BitVec.ofBool flip).setWidth 32)
    (pairBits_shiftLeft n1 n2)

/-! The record and the score of a candidate -/

section Candidate

variable (P : Block) (flip : Bool) (c : Colors)

/-- A candidate packs the best tables of its base colors into hi (R151). -/
theorem candidateOf_hi : (candidateOf P flip c).hi =
    packHi c.bits (bestTable P flip .one (c.base .one)) (bestTable P flip .two (c.base .two)) c.diff flip := rfl

/-- A candidate packs the best selectors for those tables into lo (R151). -/
theorem candidateOf_lo : (candidateOf P flip c).lo = packSelectors fun i =>
    bestSel P[i] (c.base (subblock i flip)) (bestTable P flip (subblock i flip) (c.base (subblock i flip))) := by
  simp only [candidateOf]
  refine congrArg packSelectors (funext fun i => ?_)
  cases subblock i flip <;> rfl

/-- A candidate's score is the error of its two sub-blocks (R151). -/
theorem candidateOf_score : (candidateOf P flip c).score =
    tableErr P flip .one (c.base .one) (bestTable P flip .one (c.base .one)) +
    tableErr P flip .two (c.base .two) (bestTable P flip .two (c.base .two)) := rfl

/-- The tables read from a candidate are the best ones (R91, R151). -/
theorem recTable_candidateOf (j : SubBlock) :
    recTable (candidateOf P flip c).hi j = bestTable P flip j (c.base j) := by
  obtain ⟨one, two, _⟩ := packHi_tail c.bits (bestTable P flip .one (c.base .one))
    (bestTable P flip .two (c.base .two)) c.diff flip
  cases j with
  | one => exact one
  | two => exact two

/-- A candidate's FLIP is its flip (R151). -/
@[simp] theorem recFlip_candidateOf : recFlip (candidateOf P flip c).hi = flip :=
  (packHi_tail _ _ _ _ _).2.2.2

/-- A candidate's DIFF is that of its color mode (R151). -/
@[simp] theorem recDiff_candidateOf : recDiff (candidateOf P flip c).hi = c.diff :=
  (packHi_tail _ _ _ _ _).2.2.1

end Candidate

/-- Settles O32: the fields of hi by their shifts, the rest by the candidate's own equations. -/
theorem candidateHighWordIsItsShiftedFields : Obligations.CandidateHighWordIsItsShiftedFields := by
  refine fun P flip =>
    ⟨⟨rfl, rfl, rfl, rfl⟩, ?_, ⟨rfl, rfl, rfl, rfl⟩, fun t1 t2 => ?_, fun m => ⟨rfl, rfl, fun i => ?_⟩⟩
  · simp only [representable_iff, deltaFits_iff]
  · exact ⟨packHi_differentialColors P flip t1 t2, packHi_individualColors P flip t1 t2⟩
  · rw [candidateOf_lo]
    exact getLsbD_packSelectors_selpos _ i

end Sys2Proof.Machine
end

section
/-! The error minimizer: the best selector and the best table (O35). -/

namespace Sys2Proof.Machine

/-- The best selector is the first least of the four (R149). -/
theorem bestSel_isFirstLeast (p c : Pixel) (t : BitVec 3) :
    IsFirstLeast (fun s => err p (recon c t s)) [0#2, 1#2, 2#2, 3#2] (bestSel p c t) :=
  argminFrom_isFirstLeast _ _ _

/-- The best selector has the least error (R149). -/
theorem err_bestSel_le (p c : Pixel) (t : BitVec 3) (s : BitVec 2) :
    err p (recon c t (bestSel p c t)) ≤ err p (recon c t s) :=
  argminFrom_le (fun s => err p (recon c t s)) _ _ s (selector_mem s)

/-- The least error is the best selector's (R149). -/
theorem bestErr_eq (p c : Pixel) (t : BitVec 3) : bestErr p c t = err p (recon c t (bestSel p c t)) := by
  have least := err_bestSel_le p c t
  exact le_antisymm (bestErr_le p c t _)
    (le_min (le_min (least 0#2) (least 1#2)) (le_min (least 2#2) (least 3#2)))

/-- The best table is the first least of the eight (R150). -/
theorem bestTable_isFirstLeast (P : Block) (flip : Bool) (j : SubBlock) (c : Pixel) :
    IsFirstLeast (tableErr P flip j c) [0#3, 1#3, 2#3, 3#3, 4#3, 5#3, 6#3, 7#3] (bestTable P flip j c) :=
  argminFrom_isFirstLeast _ _ _

/-- Settles O35: selectors and tables are compared in increasing order, and the first least is taken. -/
theorem bestSelectorAndTableAreTheFirstLeast : Obligations.BestSelectorAndTableAreTheFirstLeast :=
  ⟨fun p c t => ⟨err_bestSel_le p c t,
      fun s smaller => (bestSel_isFirstLeast p c t).lt_of_sorted (by decide) (selector_mem s) smaller,
      bestErr_eq p c t⟩,
    fun P flip j c => ⟨tableErr_bestTable_le P flip j c,
      fun t smaller => (bestTable_isFirstLeast P flip j c).lt_of_sorted (by decide) (table_mem t) smaller⟩⟩

end Sys2Proof.Machine
end

section
/-! The candidates: how many there are, and the one kept (O36, O37, O40). -/

namespace Sys2Proof.Machine

variable (P : Block)

/-! Counting -/

/-- A command visits the modes of each of its flips (R148). -/
theorem length_candidates (fs : FSel) (cs : CSel) :
    (candidates P fs cs).length = ((flips fs).map fun f => (modes P cs f).length).sum := by
  simp [candidates, List.length_flatMap]

/-- IND and DPREF visit one mode of a flip, BEST one or two (R147). -/
theorem length_modes (f : Bool) :
    (modes P .ind f).length = 1 ∧ (modes P .dpref f).length = 1 ∧
      1 ≤ (modes P .best f).length ∧ (modes P .best f).length ≤ 2 := by
  simp only [modes]
  split <;> decide

/-- AUTO has the candidates of both flips (R142). -/
theorem length_candidates_auto (cs : CSel) :
    (candidates P .auto cs).length = (modes P cs false).length + (modes P cs true).length :=
  length_candidates P .auto cs

/-- A search of one flip has that flip's candidates (R142). -/
theorem length_candidates_single {fs : FSel} {f : Bool} (single : flips fs = [f]) (cs : CSel) :
    (candidates P fs cs).length = (modes P cs f).length := by
  simp [length_candidates, single]

/-- LR and TB visit one flip (R142). -/
theorem exists_flips_eq_singleton {fs : FSel} (notAuto : fs ≠ .auto) : ∃ f, flips fs = [f] := by
  cases fs with
  | auto => exact absurd rfl notAuto
  | lr => exact ⟨false, rfl⟩
  | tb => exact ⟨true, rfl⟩

/-- Settles O36, flip by flip. -/
theorem candidateCounts : Obligations.CandidateCounts := by
  intro P
  obtain ⟨indLr, dprefLr, lowLr, highLr⟩ := length_modes P false
  obtain ⟨indTb, dprefTb, lowTb, highTb⟩ := length_modes P true
  simp only [length_candidates_auto]
  refine ⟨by omega, by omega, by omega, by omega, fun fs notAuto => ?_⟩
  obtain ⟨f, single⟩ := exists_flips_eq_singleton notAuto
  obtain ⟨ind, dpref, low, high⟩ := length_modes P f
  simp only [length_candidates_single P single]
  exact ⟨low, high, ind, dpref⟩

/-! The candidate kept -/

/-- Settles O37: EncodeBlock keeps the first least of its candidates. -/
theorem encoderKeepsTheFirstLeastCandidate : Obligations.EncoderKeepsTheFirstLeastCandidate := fun P fs cs =>
  keepLeast_isFirstLeast (candidates_ne_nil P fs cs)

/-- The candidate kept is that of a visited flip and mode (R152). -/
theorem encodeBlock_eq_candidateOf (fs : FSel) (cs : CSel) :
    ∃ f ∈ flips fs, ∃ m ∈ modes P cs f, encodeBlock P fs cs = candidateOf P f (colors P f m) := by
  obtain ⟨f, flip, m, mode, kept⟩ := (mem_candidates P fs cs _).1 (encodeBlock_mem P fs cs)
  exact ⟨f, flip, m, mode, kept.symm⟩

/-- The candidate kept scores at most as much as that of any visited flip and mode (R152). -/
theorem encodeBlock_score_le_candidateOf {fs : FSel} {cs : CSel} {f : Bool} {m : Mode} (flip : f ∈ flips fs)
    (mode : m ∈ modes P cs f) : (encodeBlock P fs cs).score ≤ (candidateOf P f (colors P f m)).score :=
  encodeBlock_le P fs cs _ ((mem_candidates P fs cs _).2 ⟨f, flip, m, mode, rfl⟩)

/-- A search that visits every flip and mode another visits is never worse (R155). -/
theorem encodeBlock_score_le_of_subset {fs fs' : FSel} {cs cs' : CSel} (wider : flips fs' ⊆ flips fs)
    (modesWider : ∀ f, modes P cs' f ⊆ modes P cs f) :
    (encodeBlock P fs cs).score ≤ (encodeBlock P fs' cs').score := by
  obtain ⟨f, flip, m, mode, kept⟩ := encodeBlock_eq_candidateOf P fs' cs'
  rw [kept]
  exact encodeBlock_score_le_candidateOf P (wider flip) (modesWider f mode)

/-- BEST visits every mode that another search visits (R147). -/
theorem modes_subset_best (cs : CSel) (f : Bool) : modes P cs f ⊆ modes P .best f := by
  cases cs <;> simp only [modes] <;> split <;> simp

/-- Without a differential candidate every search visits the individual one only (R147). -/
theorem modes_of_not_representable {f : Bool} (missing : representable P f = false) (cs : CSel) :
    modes P cs f = [.individual] := by
  cases cs <;> simp [modes, missing]

/-- The result depends on the search only through the modes visited (R148, R152). -/
theorem encodeBlock_congr_modes {fs : FSel} {cs cs' : CSel}
    (same : ∀ f ∈ flips fs, modes P cs f = modes P cs' f) : encodeBlock P fs cs = encodeBlock P fs cs' := by
  have visited : candidates P fs cs = candidates P fs cs' :=
    List.flatMap_congr fun f flip => by rw [same f flip]
  rw [encodeBlock, encodeBlock, visited]

/-- Settles O40: AUTO visits the flips of LR and TB, and BEST the modes of IND and DPREF. -/
theorem widerSearchIsNeverWorse : Obligations.WiderSearchIsNeverWorse := by
  refine fun P => ⟨fun cs => ⟨?_, ?_⟩, fun fs => ⟨?_, ?_⟩, fun fs missing => ⟨?_, ?_⟩⟩
  · exact encodeBlock_score_le_of_subset P (by decide) fun f => List.Subset.refl _
  · exact encodeBlock_score_le_of_subset P (by decide) fun f => List.Subset.refl _
  · exact encodeBlock_score_le_of_subset P (List.Subset.refl _) (modes_subset_best P _)
  · exact encodeBlock_score_le_of_subset P (List.Subset.refl _) (modes_subset_best P _)
  all_goals
    exact encodeBlock_congr_modes P fun f flip =>
      (modes_of_not_representable P (missing f flip) _).trans (modes_of_not_representable P (missing f flip) _).symm

end Sys2Proof.Machine
end

section
/-! The FLIP and DIFF bits of the result (O38, O39). -/

namespace Sys2Proof.Machine

variable (P : Block)

/-! The winning flip -/

/-- The result's FLIP is that of the candidate kept (R151, R153). -/
theorem recFlip_encodeBlock (fs : FSel) (cs : CSel) :
    ∃ f ∈ flips fs, ∃ m ∈ modes P cs f, encodeBlock P fs cs = candidateOf P f (colors P f m) ∧
      recFlip (encodeBlock P fs cs).hi = f := by
  obtain ⟨f, flip, m, mode, kept⟩ := encodeBlock_eq_candidateOf P fs cs
  exact ⟨f, flip, m, mode, kept, by rw [kept, recFlip_candidateOf]⟩

/-- A search of one flip answers that flip (R153). -/
theorem recFlip_encodeBlock_single {fs : FSel} {f : Bool} (single : flips fs = [f]) (cs : CSel) :
    recFlip (encodeBlock P fs cs).hi = f := by
  obtain ⟨f', flip, m, _, _, answered⟩ := recFlip_encodeBlock P fs cs
  rw [single] at flip
  exact answered.trans (List.mem_singleton.1 flip)

/-- AUTO keeps the left/right result unless the top/bottom one is strictly less (R152, R153). -/
theorem encodeBlock_auto (cs : CSel) :
    encodeBlock P .auto cs =
      if (encodeBlock P .tb cs).score < (encodeBlock P .lr cs).score then encodeBlock P .tb cs
      else encodeBlock P .lr cs := by
  have joined : candidates P .auto cs = candidates P .lr cs ++ candidates P .tb cs := by simp [candidates, flips]
  rw [encodeBlock, joined]
  exact keepLeast_append (candidates_ne_nil P .lr cs) (candidates_ne_nil P .tb cs)

/-- AUTO answers the top/bottom split exactly when that split's result is strictly less (R153). -/
theorem recFlip_encodeBlock_auto (cs : CSel) :
    recFlip (encodeBlock P .auto cs).hi = true ↔ (encodeBlock P .tb cs).score < (encodeBlock P .lr cs).score := by
  rw [encodeBlock_auto]
  split
  · next less => simp only [recFlip_encodeBlock_single P (fs := .tb) rfl, less]
  · next notLess => simp only [recFlip_encodeBlock_single P (fs := .lr) rfl, notLess, Bool.false_eq_true]

/-- One search's result is less than another's exactly when some candidate of the first is less than every one of the
second (R152). -/
theorem encodeBlock_score_lt_iff (fs fs' : FSel) (cs : CSel) :
    (encodeBlock P fs cs).score < (encodeBlock P fs' cs).score ↔
      ∃ c ∈ candidates P fs cs, ∀ d ∈ candidates P fs' cs, c.score < d.score := by
  constructor
  · exact fun less => ⟨_, encodeBlock_mem P fs cs, fun d visited => less.trans_le (encodeBlock_le P fs' cs d visited)⟩
  · rintro ⟨c, visited, less⟩
    exact (encodeBlock_le P fs cs c visited).trans_lt (less _ (encodeBlock_mem P fs' cs))

/-- Settles O38: the candidate kept carries its flip, and AUTO compares the two flips' results. -/
theorem flipBitIsTheWinningPartition : Obligations.FlipBitIsTheWinningPartition := fun P cs =>
  ⟨fun fs => recFlip_encodeBlock P fs cs, recFlip_encodeBlock_single P rfl cs, recFlip_encodeBlock_single P rfl cs,
    (recFlip_encodeBlock_auto P cs).trans (encodeBlock_score_lt_iff P .tb .lr cs)⟩

/-! The color mode -/

/-- Every result is that of a search of its own flip alone (R152). -/
theorem exists_single_search (fs : FSel) (cs : CSel) :
    ∃ fs', flips fs' = [recFlip (encodeBlock P fs cs).hi] ∧ encodeBlock P fs cs = encodeBlock P fs' cs := by
  have lr : flips .lr = [recFlip (encodeBlock P .lr cs).hi] := by rw [recFlip_encodeBlock_single P rfl]; rfl
  have tb : flips .tb = [recFlip (encodeBlock P .tb cs).hi] := by rw [recFlip_encodeBlock_single P rfl]; rfl
  cases fs with
  | lr => exact ⟨.lr, lr, rfl⟩
  | tb => exact ⟨.tb, tb, rfl⟩
  | auto =>
    rw [encodeBlock_auto]
    split
    · exact ⟨.tb, tb, rfl⟩
    · exact ⟨.lr, lr, rfl⟩

/-- DPREF visits the differential mode exactly when it exists, and no other then (R147). -/
theorem diff_of_mem_modes_dpref {f : Bool} {m : Mode} (mode : m ∈ modes P .dpref f) :
    (colors P f m).diff = representable P f := by
  simp only [modes] at mode
  split at mode
  · next exist =>
    obtain rfl := List.mem_singleton.1 mode
    exact exist.symm
  · next missing =>
    obtain rfl := List.mem_singleton.1 mode
    exact (Bool.eq_false_of_not_eq_true missing).symm

/-- BEST keeps a flip's differential candidate when it exists and the individual one is not strictly less (R147,
R152). -/
theorem encodeBlock_best_single {fs : FSel} {f : Bool} (single : flips fs = [f]) :
    encodeBlock P fs .best =
      if representable P f = true ∧
        (candidateOf P f (colors P f .differential)).score ≤ (candidateOf P f (colors P f .individual)).score
      then candidateOf P f (colors P f .differential) else candidateOf P f (colors P f .individual) := by
  have visited : candidates P fs .best = (modes P .best f).map fun m => candidateOf P f (colors P f m) := by
    simp [candidates, single]
  rw [encodeBlock, visited]
  by_cases exist : representable P f = true
  · simp only [modes, exist, if_true, true_and]
    exact keepLeast_pair _ _
  · rw [modes_of_not_representable P (Bool.eq_false_of_not_eq_true exist), if_neg fun h => exist h.1]
    rfl

/-- Settles O39, search by search. -/
theorem diffBitFollowsTheColorModeSearch : Obligations.DiffBitFollowsTheColorModeSearch := by
  refine fun P fs => ⟨?_, ?_, ?_⟩
  · obtain ⟨f, _, m, mode, kept⟩ := encodeBlock_eq_candidateOf P fs .ind
    obtain rfl := List.mem_singleton.1 mode
    rw [kept, recDiff_candidateOf]
    rfl
  · obtain ⟨f, _, m, mode, kept⟩ := encodeBlock_eq_candidateOf P fs .dpref
    rw [kept, recDiff_candidateOf, recFlip_candidateOf]
    exact diff_of_mem_modes_dpref P mode
  · intro f
    obtain ⟨fs', single, same⟩ := exists_single_search P fs .best
    rw [same, encodeBlock_best_single P single]
    split
    · next kept => exact iff_of_true (recDiff_candidateOf P _ _) kept
    · next dropped => exact iff_of_false (by simp [colors, individualColors]) dropped

end Sys2Proof.Machine
end

section
/-! Solid blocks (O41). -/

namespace Sys2Proof.Machine

variable (p : Pixel)

/-- The block of 16 pixels of one color (R157). -/
def solidBlock : Block :=
  Vector.replicate 16 p

/-- Every pixel of a solid block is its color. -/
theorem solidBlock_pixel (i : Fin 16) : (solidBlock p)[i] = p :=
  Vector.getElem_replicate i.isLt

/-- A sum over the eight pixels of a solid sub-block is eight times a term. -/
theorem sum_members_const (flip : Bool) (j : SubBlock) (n : Nat) :
    ((members flip j).map fun _ => n).sum = 8 * n := by
  rw [List.map_const', List.sum_replicate, members_length, smul_eq_mul]

/-- Every channel of a solid block averages to itself: (8 v + 4) / 8 = v (R143). -/
theorem channelAvg_solid (flip : Bool) (j : SubBlock) (channel : Pixel → Byte) :
    channelAvg (solidBlock p) flip j channel = channel p := by
  apply BitVec.eq_of_toNat_eq
  rw [toNat_channelAvg]
  simp only [solidBlock_pixel, sum_members_const]
  omega

/-- A solid block averages to its color (R157). -/
theorem avg_solid (flip : Bool) (j : SubBlock) : avg (solidBlock p) flip j = p := by
  simp only [avg, channelAvg_solid]

/-- A color's delta from itself fits (R144). -/
theorem deltaFits_self (q : BitVec 5) : deltaFits q q = true := by
  rw [deltaFits_iff]
  omega

/-- A solid block's differential candidate exists: every delta is 0 (R157). -/
theorem representable_solid (flip : Bool) : representable (solidBlock p) flip = true := by
  simp only [representable_iff, quantized5, avg_solid, deltaFits_self, and_self]

/-- A solid block has the same colors under both flips. -/
theorem colors_solid (flip flip' : Bool) (m : Mode) : colors (solidBlock p) flip m = colors (solidBlock p) flip' m := by
  cases m <;> simp only [colors, differentialColors, individualColors, quantized5, quantized4, avg_solid]

/-- A solid block has the same modes under both flips. -/
theorem modes_solid (cs : CSel) (flip flip' : Bool) : modes (solidBlock p) cs flip = modes (solidBlock p) cs flip' := by
  simp only [modes, representable_solid]

/-- A sub-block of a solid block errs eight times as much as its one color (R150). -/
theorem tableErr_solid (flip : Bool) (j : SubBlock) (c : Pixel) :
    tableErr (solidBlock p) flip j c = fun t => 8 * bestErr p c t := by
  funext t
  simp only [tableErr, solidBlock_pixel, sum_members_const]

/-- Candidates of a solid block with the same colors score the same under both flips. -/
theorem candidateOf_solid_score (flip flip' : Bool) (c : Colors) :
    (candidateOf (solidBlock p) flip c).score = (candidateOf (solidBlock p) flip' c).score := by
  simp only [candidateOf_score, bestTable, tableErr_solid]

/-- Settles O41: each top/bottom candidate ties with the left/right one of its mode, which is visited first. -/
theorem solidBlocksKeepLeftRight : Obligations.SolidBlocksKeepLeftRight := by
  refine fun p cs => ⟨avg_solid p, representable_solid p, Bool.eq_false_iff.2 fun flipped => ?_⟩
  have less := (recFlip_encodeBlock_auto (solidBlock p) cs).1 flipped
  obtain ⟨f, _, m, mode, kept⟩ := encodeBlock_eq_candidateOf (solidBlock p) .tb cs
  rw [modes_solid p cs f false] at mode
  have tie := encodeBlock_score_le_candidateOf (solidBlock p) (fs := .lr) List.mem_cons_self mode
  rw [kept, candidateOf_solid_score p f false, colors_solid p f false] at less
  exact absurd less tie.not_gt

end Sys2Proof.Machine
end

section
/-! The score of a candidate is its reconstruction error, and no record of its colors has a lesser one (O42). -/

namespace Sys2Proof.Machine

variable (P : Block)

/-! The score of a record, by sub-blocks -/

/-- The error of the pixels of a sub-block in the decoding of a record (R127, R129). -/
def subblockErr (hi lo : Word) (j : SubBlock) : Nat :=
  ((members (recFlip hi) j).map fun i =>
    err P[i] (recon (baseColor hi j) (recTable hi j) (recSelector lo i))).sum

/-- The score of a record is the error of its two sub-blocks (R129). -/
theorem blockScore_decodeRecord (hi lo : Word) :
    blockScore P (decodeRecord hi lo) = subblockErr P hi lo .one + subblockErr P hi lo .two := by
  have pixel (j : SubBlock) : subblockErr P hi lo j =
      ((members (recFlip hi) j).map fun i => err P[i] (decodeRecord hi lo)[i]).sum := by
    refine congrArg List.sum (List.map_congr_left fun i member => ?_)
    rw [decodeRecord_pixel, (mem_members _ j i).1 member]
  rw [blockScore, sum_members (recFlip hi), pixel, pixel]

/-- A sub-block's error is at least the least error for its base color and table (R149, R150). -/
theorem tableErr_le_subblockErr (hi lo : Word) (j : SubBlock) :
    tableErr P (recFlip hi) j (baseColor hi j) (recTable hi j) ≤ subblockErr P hi lo j :=
  List.sum_le_sum fun i _ => bestErr_le P[i] _ _ _

/-- With the best selectors a sub-block's error is the least one (R149, R150). -/
theorem subblockErr_eq_tableErr {hi lo : Word} {j : SubBlock}
    (best : ∀ i ∈ members (recFlip hi) j, recSelector lo i = bestSel P[i] (baseColor hi j) (recTable hi j)) :
    subblockErr P hi lo j = tableErr P (recFlip hi) j (baseColor hi j) (recTable hi j) := by
  refine congrArg List.sum (List.map_congr_left fun i member => ?_)
  rw [best i member, bestErr_eq]

/-! The candidates -/

/-- No record of a candidate's flip and base colors scores less than the candidate (R150). -/
theorem candidateOf_score_le (c : Colors) {hi : Word} (lo : Word) (base : ∀ j, baseColor hi j = c.base j) :
    (candidateOf P (recFlip hi) c).score ≤ blockScore P (decodeRecord hi lo) := by
  have least (j : SubBlock) :
      tableErr P (recFlip hi) j (c.base j) (bestTable P (recFlip hi) j (c.base j)) ≤ subblockErr P hi lo j :=
    (tableErr_bestTable_le P _ j _ (recTable hi j)).trans (base j ▸ tableErr_le_subblockErr P hi lo j)
  rw [candidateOf_score, blockScore_decodeRecord]
  exact Nat.add_le_add (least .one) (least .two)

/-- Settles O42: the result scores no more than the visited candidate, and that one no more than the record. -/
theorem encoderIsOptimalForItsColors : Obligations.EncoderIsOptimalForItsColors := by
  rintro P fs cs _ m hi lo flip mode rfl base
  exact (encodeBlock_score_le_candidateOf P flip mode).trans (candidateOf_score_le P _ lo base)

/-- The selectors read from a candidate are the best ones (R94, R151). -/
theorem recSelector_candidateOf (f : Bool) (c : Colors) (i : Fin 16) :
    recSelector (candidateOf P f c).lo i =
      bestSel P[i] (c.base (subblock i f)) (bestTable P f (subblock i f) (c.base (subblock i f))) := by
  rw [candidateOf_lo, recSelector_packSelectors]

/-- A candidate that exists reads back its base colors (R124, R125, R151). -/
theorem baseColor_candidateOf {f : Bool} {m : Mode} (exist : m = .differential → representable P f = true)
    (j : SubBlock) : baseColor (candidateOf P f (colors P f m)).hi j = (colors P f m).base j :=
  (packedColorsAreReadBack P f m _ _ exist).1 j

/-- The differential mode is visited only where it exists (R147). -/
theorem representable_of_mem_modes {cs : CSel} {f : Bool} {m : Mode} (mode : m ∈ modes P cs f) :
    m = .differential → representable P f = true := by
  rintro rfl
  by_contra missing
  rw [modes_of_not_representable P (Bool.eq_false_of_not_eq_true missing)] at mode
  cases List.mem_singleton.1 mode

/-- The score of a candidate that exists is that of its own record (R154). -/
theorem blockScore_candidateOf {f : Bool} {m : Mode} (exist : m = .differential → representable P f = true) :
    blockScore P (decodeRecord (candidateOf P f (colors P f m)).hi (candidateOf P f (colors P f m)).lo) =
      (candidateOf P f (colors P f m)).score := by
  have half (j : SubBlock) :
      subblockErr P (candidateOf P f (colors P f m)).hi (candidateOf P f (colors P f m)).lo j =
        tableErr P f j ((colors P f m).base j) (bestTable P f j ((colors P f m).base j)) := by
    rw [subblockErr_eq_tableErr, recFlip_candidateOf, recTable_candidateOf, baseColor_candidateOf P exist]
    intro i member
    rw [recFlip_candidateOf, mem_members] at member
    rw [recSelector_candidateOf, member, recTable_candidateOf, baseColor_candidateOf P exist]
  rw [blockScore_decodeRecord, half, half, candidateOf_score]

/-- The score of an encoded block is that of its record (R154). -/
theorem blockScore_encodeBlock (fs : FSel) (cs : CSel) :
    blockScore P (decodeRecord (encodeBlock P fs cs).hi (encodeBlock P fs cs).lo) = (encodeBlock P fs cs).score := by
  obtain ⟨f, _, m, mode, kept⟩ := encodeBlock_eq_candidateOf P fs cs
  rw [kept, blockScore_candidateOf P (representable_of_mem_modes P mode)]

end Sys2Proof.Machine
end

section
/-! What the commands do with the encoded block (O45, O47, O48). -/

namespace Sys2Proof.Machine

/-- SCORE holds the score of an encoded block without loss (R31). -/
theorem toNat_ofNat_encodeBlock_score (P : Block) (fs : FSel) (cs : CSel) :
    (BitVec.ofNat 32 (encodeBlock P fs cs).score).toNat = (encodeBlock P fs cs).score := by
  have bound := encodeBlock_score_le P fs cs
  rw [BitVec.toNat_ofNat]
  exact Nat.mod_eq_of_lt (bound.trans_lt (by decide))

/-- Settles O48: the candidate kept scores as its record does, which is what EVAL computes. -/
theorem encScoreIsItsReconstructionError : Obligations.EncScoreIsItsReconstructionError := by
  refine fun fs cs s => ⟨_, exec_enc fs cs s, ?_, fun u pixIn hi lo => ⟨_, exec_eval u, ?_, ?_⟩⟩
  · exact (toNat_ofNat_encodeBlock_score _ fs cs).trans (blockScore_encodeBlock _ fs cs).symm
  · simp [pixIn, hi, lo, blockScore_encodeBlock]
  · simp [hi, lo]

/-- Settles O45: the nine rows are the nine pairs of fields, and each runs EncodeBlock with its own. -/
theorem encVariantsWriteTheEncodedBlock : Obligations.EncVariantsWriteTheEncodedBlock := by
  intro s i fs cs row
  have variant : i = Instr.enc fs cs := by
    cases fs <;> cases cs <;> simpa [Instr.enc] using row
  rw [variant]
  exact exec_enc fs cs s

/-- Settles O47: the results are functions of the operands. -/
theorem resultsDependOnOperandsOnly : Obligations.ResultsDependOnOperandsOnly := by
  refine fun s s' => ⟨fun fs cs pixIn => ⟨_, _, exec_enc fs cs s, exec_enc fs cs s', ?_⟩,
    fun hi lo => ⟨_, _, exec_dec s, exec_dec s', ?_⟩, fun hi lo pixIn => ⟨_, _, exec_eval s, exec_eval s', ?_⟩⟩
  · simp [pixIn]
  · simp [hi, lo]
  · simp [hi, lo, pixIn]

end Sys2Proof.Machine
end

section
/-! What DEC and EVAL write, the write-back of every command, and when EVAL scores 0 (O43, O44, O46, O49). -/

namespace Sys2Proof.Machine

/-- Settles O43: DEC is the write-back and the completion, each of which names the fields it writes. -/
theorem decWritesTheDecodedBlock : Obligations.DecWritesTheDecodedBlock := by
  intro s
  rw [exec_dec, State.complete, Status.complete, State.writeOut]

/-- Settles O44: EVAL is the write-back, the score and the completion, each of which names the fields it writes. -/
theorem evalWritesTheBlockAndItsScore : Obligations.EvalWritesTheBlockAndItsScore := by
  intro s
  rw [exec_eval, State.complete, Status.complete, State.setScore, State.writeOut]

/-! The write-back -/

/-- Every command leaves PIX_OUT the decoding of the record it leaves in BLK_HI and BLK_LO (R180). -/
theorem exec_pixOut (i : Instr) (s : State) :
    ∃ t, exec i s = .next t ∧ t.pixOut = decodeRecord t.blkHi t.blkLo := by
  rcases instr_cases i with rfl | rfl | ⟨fs, cs, rfl⟩
  · exact ⟨_, exec_dec s, by simp⟩
  · exact ⟨_, exec_eval s, by simp⟩
  · exact ⟨_, exec_enc fs cs s, by simp⟩

/-- Settles O46: every command writes back all 16 pixels, and a pixel register reads as the word `LDPIX` writes. -/
theorem everyCommandWritesOutTheRecord : Obligations.EveryCommandWritesOutTheRecord := by
  intro i s
  obtain ⟨t, next, written⟩ := exec_pixOut i s
  refine ⟨t, next, fun k => ?_⟩
  have pixel : t.pixOut[k] = decodePixel t.blkHi t.blkLo k := by
    rw [written]
    exact decodeRecord_getElem _ _ k k.isLt
  rw [regValue, pixel]
  exact (ldpixWord_eq_pixelWord _ _ _).symm

/-! A score of 0 -/

/-- The square of a difference is 0 exactly when the two channel values are equal (R129). -/
theorem sqDiff_eq_zero_iff (a b : Byte) : sqDiff a b = 0 ↔ a = b := by
  rw [sqDiff, pow_eq_zero_iff two_ne_zero, Int.natAbs_eq_zero, sub_eq_zero, Nat.cast_inj, BitVec.toNat_inj]

/-- The weights being positive, the error of a pixel is 0 exactly when no channel differs (R129). -/
theorem err_eq_zero_iff (p q : Pixel) : err p q = 0 ↔ p = q := by
  obtain ⟨r, g, b⟩ := p
  obtain ⟨r', g', b'⟩ := q
  simp [err, sqDiff_eq_zero_iff, and_assoc]

/-- A block scores 0 exactly when no pixel differs (R129). -/
theorem blockScore_eq_zero_iff (P Q : Block) : blockScore P Q = 0 ↔ ∀ i : Fin 16, P[i] = Q[i] := by
  rw [blockScore_eq_sum, Finset.sum_eq_zero_iff]
  simp only [Finset.mem_univ, true_imp_iff, err_eq_zero_iff]

/-- SCORE holds every block score without loss (R31). -/
theorem toNat_ofNat_blockScore (P Q : Block) : (BitVec.ofNat 32 (blockScore P Q)).toNat = blockScore P Q := by
  rw [BitVec.toNat_ofNat]
  exact Nat.mod_eq_of_lt ((blockScore_le P Q).trans_lt (by decide))

/-- Settles O49: SCORE holds the block score of PIX_IN against the new PIX_OUT, and no nonzero score wraps to 0. -/
theorem evalScoresZeroExactlyOnAMatch : Obligations.EvalScoresZeroExactlyOnAMatch := by
  refine fun s => ⟨_, exec_eval s, ?_⟩
  rw [State.complete_score, State.setScore_score, State.complete_pixOut, State.setScore_pixOut, State.writeOut_pixOut,
    ← BitVec.toNat_inj, toNat_ofNat_blockScore, BitVec.toNat_zero, blockScore_eq_zero_iff]

end Sys2Proof.Machine
end

section
/-! Recording an error, and what asserts and clears the interrupt output (O19, O22). -/

namespace Sys2Proof.Machine

/-! Recording an error -/

/-- While ERR = 1 no error is recorded, so that the first one is kept (R202). -/
theorem State.raise_of_err {s : State} (e : ErrorCause) (err : s.status.err = true) : s.raise e = s := by
  rw [State.raise, Status.raise, if_pos err]

/-- While ERR = 0 an error sets ERR and ERRCODE, and nothing else (R202). -/
theorem State.raise_of_no_err {s : State} (e : ErrorCause) (noErr : s.status.err = false) :
    s.raise e = { s with status := { s.status with err := true, errcode := errorCode e } } := by
  rw [State.raise, Status.raise, if_neg (by simp [noErr])]

/-- Settles O19, by the value of ERR; the codes are those of `errorCode`. -/
theorem firstErrorIsRecorded : Obligations.FirstErrorIsRecorded := fun _ =>
  ⟨State.raise_of_err, fun noErr => ⟨State.raise_of_no_err .badOp noErr, State.raise_of_no_err .badField noErr,
    State.raise_of_no_err .busyCmd noErr, State.raise_of_no_err .busyWrite noErr⟩⟩

/-! The interrupt output -/

/-- The interrupt output is asserted when it is enabled and DONE or ERR stands (R210). -/
theorem irq_iff (s : State) : irq s = true ↔ s.irqen = true ∧ (s.status.done = true ∨ s.status.err = true) := by
  simp [irq]

/-- With DONE and ERR both 0 there is no interrupt, whatever IRQEN is (R210). -/
theorem irq_of_quiet {s : State} (noDone : s.status.done = false) (noErr : s.status.err = false) : irq s = false := by
  simp [irq, noDone, noErr]

/-- With IRQEN = 0 there is no interrupt (R210). -/
theorem irq_of_disabled {s : State} (disabled : s.irqen = false) : irq s = false := by
  simp [irq, disabled]

/-- With DONE = 1 the interrupt output is the enable (R210). -/
theorem irq_of_done {s : State} (done : s.status.done = true) : irq s = s.irqen := by
  simp [irq, done]

/-- Completion of a command sets DONE and leaves IRQEN, so it asserts the interrupt when enabled (R34, R210). -/
theorem exec_irq (i : Instr) (s : State) : ∃ t, exec i s = .next t ∧ irq t = s.irqen := by
  obtain ⟨t, next, status, _, _, irqen, _⟩ := exec_completes i s
  have done : t.status.done = true := by rw [status, Status.complete_done]
  exact ⟨t, next, (irq_of_done done).trans irqen⟩

/-- Settles O22: a write of 6 to STATUS and the acceptance of a command leave DONE and ERR both 0, and a write of 0 to
CTRL leaves IRQEN 0. -/
theorem interruptFollowsDoneAndErr : Obligations.InterruptFollowsDoneAndErr := by
  refine fun s => ⟨irq_iff s, fun i => exec_irq i s, ?statusWrite, ?ctrlWrite, fun i idle => ?cmdWrite⟩
  case statusWrite => exact ⟨_, hostAccess_write .status _ s, irq_of_quiet rfl rfl⟩
  case ctrlWrite => exact ⟨_, hostAccess_write .ctrl _ s, irq_of_disabled rfl⟩
  case cmdWrite => exact ⟨_, hostAccess_cmd_of_command idle (decode_encode i), irq_of_quiet rfl rfl⟩

end Sys2Proof.Machine
end

section
/-! Reset (O52). -/

namespace Sys2Proof.Machine

/-- The step of a reset that is next, whatever is pending (R231). -/
theorem step_of_reset {s : State} {rest : List Action} (next : s.schedule = .reset :: rest) :
    step s = .next s.beginStep.resetAction := by
  simp only [step, nextAction, next]

/-- The schedule and the count of free values, which the reset action keeps, show in no register's value (R230). -/
theorem regValue_resetAction (r : Reg) (s : State) : regValue s.resetAction r = regValue State.reset r := by
  cases r <;> rfl

/-- The reset action sets every pixel register to 0 (R230). -/
theorem regValue_resetAction_pixels (i : Fin 16) (s : State) :
    regValue s.resetAction (.pixIn i) = 0#32 ∧ regValue s.resetAction (.pixOut i) = 0#32 := by
  simp [regValue_resetAction, regValue_reset]

/-- Settles O52, by the fields of the reset state; the schedule is what the start of the step left of it. -/
theorem resetClearsEveryRegister : Obligations.ResetClearsEveryRegister := by
  refine ⟨fun s rest next => ⟨_, step_of_reset next, rfl, rfl, rfl, rfl, rfl, rfl, ?pixels, rfl, ?quiet, rfl, ?left⟩, rfl⟩
  case pixels => exact fun i => regValue_resetAction_pixels i s.beginStep
  case quiet => exact irq_of_quiet rfl rfl
  case left => rw [State.resetAction_schedule, State.beginStep_schedule, next, List.tail_cons]

end Sys2Proof.Machine
end
